-- ==== Sys2Proof/Word.lean ====
section
/-!
DEFINITION. The words of the hardware: bytes, 16-bit words, 12-bit addresses and register indices.

Every value of the spec is an unsigned integer (00_scope.md R10), so a bit vector is read by `toNat` wherever an
exact number is meant.
-/
namespace Sys2Proof

/-- An 8-bit value: a general register, a timer, a memory cell, an immediate kk (00_scope.md R6). -/
abbrev Byte := BitVec 8

/-- A 16-bit value: PC, I, a stack entry, OPC, an instruction word (00_scope.md R6). -/
abbrev Word := BitVec 16

/-- The 12-bit address immediate nnn (30_encoding.md R49). -/
abbrev Addr := BitVec 12

/-- The number of a general register V0..VF (10_state.md R14), and equally of a key (10_state.md R24). -/
abbrev RegIdx := Fin 16

end Sys2Proof
end

