-- ==== Sys2Proof/Config.lean ====
section
/-!
DEFINITION. The fixed parameters of the hardware (00_scope.md R6) and the one value the spec leaves open (R7).
-/
namespace Sys2Proof.Config

/-- MEM_SIZE: 4096 bytes, addresses 0x000..0xFFF (00_scope.md R6). -/
abbrev memSize : Nat := 4096

/-- PROG_BASE: the entry point, and where LOAD writes from (00_scope.md R6). -/
abbrev progBase : Nat := 0x200

/-- MAX_PROGRAM_BYTES: 4096 - 0x200 = 3584 (00_scope.md R6). -/
abbrev maxProgramBytes : Nat := 3584

/-- RAND (00_scope.md R7): the byte of the draw with a given number. A FREE VALUE: it has no body, so no claim can rest
on any value of it, on a law of the sequence or on two draws being equal or different. DESIGN CHOICE (log entry 2):
the draws are numbered by the counter `draws` of State. Safe: a claim holds for every sequence of draws. -/
opaque rand : Nat → Byte

end Sys2Proof.Config
end

