-- ==== Sys2Proof/Syntax.lean ====
section
/-!
DEFINITION. The instructions: one constructor for each of the 34 rows of spec/opcode_table.json (00_scope.md R2,
30_encoding.md R52). The fields have the widths of 30_encoding.md R49: x and y are register indices, n is a row count,
kk a byte, nnn a 12-bit address.
-/
namespace Sys2Proof

/-- The base CHIP-8 instruction set (00_scope.md R2). -/
inductive Instr where
  /-- 00E0, row CLS (41_display.md R70) -/
  | cls
  /-- 00EE, row RET (42_control_flow.md R77) -/
  | ret
  /-- 1nnn, row JP (42_control_flow.md R78) -/
  | jp (nnn : Addr)
  /-- 2nnn, row CALL (42_control_flow.md R79) -/
  | call (nnn : Addr)
  /-- 3xkk, row SE_imm (42_control_flow.md R80) -/
  | seImm (x : RegIdx) (kk : Byte)
  /-- 4xkk, row SNE_imm (42_control_flow.md R81) -/
  | sneImm (x : RegIdx) (kk : Byte)
  /-- 5xy0, row SE_reg (42_control_flow.md R82) -/
  | seReg (x y : RegIdx)
  /-- 6xkk, row LD_imm (43_alu.md R87) -/
  | ldImm (x : RegIdx) (kk : Byte)
  /-- 7xkk, row ADD_imm (43_alu.md R88) -/
  | addImm (x : RegIdx) (kk : Byte)
  /-- 8xy0, row LD_reg (43_alu.md R89) -/
  | ldReg (x y : RegIdx)
  /-- 8xy1, row OR (43_alu.md R90) -/
  | orReg (x y : RegIdx)
  /-- 8xy2, row AND (43_alu.md R91) -/
  | andReg (x y : RegIdx)
  /-- 8xy3, row XOR (43_alu.md R92) -/
  | xorReg (x y : RegIdx)
  /-- 8xy4, row ADD_reg (43_alu.md R93) -/
  | addReg (x y : RegIdx)
  /-- 8xy5, row SUB (43_alu.md R94) -/
  | sub (x y : RegIdx)
  /-- 8xy6, row SHR (43_alu.md R95); y is encoded but ignored -/
  | shr (x y : RegIdx)
  /-- 8xy7, row SUBN (43_alu.md R96) -/
  | subn (x y : RegIdx)
  /-- 8xyE, row SHL (43_alu.md R97); y is encoded but ignored -/
  | shl (x y : RegIdx)
  /-- 9xy0, row SNE_reg (42_control_flow.md R83) -/
  | sneReg (x y : RegIdx)
  /-- Annn, row LD_I (44_index_memory.md R99) -/
  | ldI (nnn : Addr)
  /-- Bnnn, row JP_V0 (42_control_flow.md R84) -/
  | jpV0 (nnn : Addr)
  /-- Cxkk, row RND (43_alu.md R98) -/
  | rnd (x : RegIdx) (kk : Byte)
  /-- Dxyn, row DRW (41_display.md R71) -/
  | drw (x y : RegIdx) (n : Fin 16)
  /-- Ex9E, row SKP (45_keys_timers.md R106) -/
  | skp (x : RegIdx)
  /-- ExA1, row SKNP (45_keys_timers.md R107) -/
  | sknp (x : RegIdx)
  /-- Fx07, row LD_Vx_DT (45_keys_timers.md R108) -/
  | ldVxDt (x : RegIdx)
  /-- Fx0A, row LD_Vx_K (45_keys_timers.md R109) -/
  | ldVxK (x : RegIdx)
  /-- Fx15, row LD_DT_Vx (45_keys_timers.md R110) -/
  | ldDtVx (x : RegIdx)
  /-- Fx18, row LD_ST_Vx (45_keys_timers.md R111) -/
  | ldStVx (x : RegIdx)
  /-- Fx1E, row ADD_I_Vx (44_index_memory.md R100) -/
  | addIVx (x : RegIdx)
  /-- Fx29, row LD_F_Vx (44_index_memory.md R101) -/
  | ldFVx (x : RegIdx)
  /-- Fx33, row LD_B_Vx (44_index_memory.md R102) -/
  | ldBVx (x : RegIdx)
  /-- Fx55, row LD_I_Vx (44_index_memory.md R103) -/
  | ldIVx (x : RegIdx)
  /-- Fx65, row LD_Vx_I (44_index_memory.md R104) -/
  | ldVxI (x : RegIdx)
deriving DecidableEq, Repr

end Sys2Proof
end

