-- ==== Sys2Proof/WellFormed.lean ====
section
/-!
DEFINITION. What is well formed. The fields of `Instr` have exactly the widths of 30_encoding.md R49, so EVERY term of
`Instr` is a well-formed instruction and nothing about it is left to check. Two things from outside can be ill formed:
an instruction word (it may match no row of the opcode table, R54) and a program image (it may be too long, 00_scope.md
R6). Each has its check here, with ill-formed terms in Sys2Proof/Tests/Slice0.lean.
-/
namespace Sys2Proof

/-- One row of spec/opcode_table.json: a word belongs to the row when its bits under `mask` are `bits`. -/
structure OpcodeRow where
  mnemonic : String
  bits : Word
  mask : Word
deriving DecidableEq, Repr

/-- spec/opcode_table.json (30_encoding.md R52, R53), row for row. -/
def opcodeTable : List OpcodeRow :=
  [⟨"CLS", 0x00E0, 0xFFFF⟩, ⟨"RET", 0x00EE, 0xFFFF⟩, ⟨"JP", 0x1000, 0xF000⟩, ⟨"CALL", 0x2000, 0xF000⟩,
   ⟨"SE_imm", 0x3000, 0xF000⟩, ⟨"SNE_imm", 0x4000, 0xF000⟩, ⟨"SE_reg", 0x5000, 0xF00F⟩,
   ⟨"LD_imm", 0x6000, 0xF000⟩, ⟨"ADD_imm", 0x7000, 0xF000⟩] ++
  [⟨"LD_reg", 0x8000, 0xF00F⟩, ⟨"OR", 0x8001, 0xF00F⟩, ⟨"AND", 0x8002, 0xF00F⟩, ⟨"XOR", 0x8003, 0xF00F⟩,
   ⟨"ADD_reg", 0x8004, 0xF00F⟩, ⟨"SUB", 0x8005, 0xF00F⟩, ⟨"SHR", 0x8006, 0xF00F⟩, ⟨"SUBN", 0x8007, 0xF00F⟩,
   ⟨"SHL", 0x800E, 0xF00F⟩, ⟨"SNE_reg", 0x9000, 0xF00F⟩] ++
  [⟨"LD_I", 0xA000, 0xF000⟩, ⟨"JP_V0", 0xB000, 0xF000⟩, ⟨"RND", 0xC000, 0xF000⟩, ⟨"DRW", 0xD000, 0xF000⟩,
   ⟨"SKP", 0xE09E, 0xF0FF⟩, ⟨"SKNP", 0xE0A1, 0xF0FF⟩] ++
  [⟨"LD_Vx_DT", 0xF007, 0xF0FF⟩, ⟨"LD_Vx_K", 0xF00A, 0xF0FF⟩, ⟨"LD_DT_Vx", 0xF015, 0xF0FF⟩,
   ⟨"LD_ST_Vx", 0xF018, 0xF0FF⟩, ⟨"ADD_I_Vx", 0xF01E, 0xF0FF⟩, ⟨"LD_F_Vx", 0xF029, 0xF0FF⟩,
   ⟨"LD_B_Vx", 0xF033, 0xF0FF⟩, ⟨"LD_I_Vx", 0xF055, 0xF0FF⟩, ⟨"LD_Vx_I", 0xF065, 0xF0FF⟩]

/-- The word belongs to the row. -/
def OpcodeRow.admits (r : OpcodeRow) (w : Word) : Bool :=
  w &&& r.mask == r.bits

/-- A word is well formed when some row of the opcode table admits it (30_encoding.md R54). -/
def wellFormedWord (w : Word) : Bool :=
  opcodeTable.any (·.admits w)

/-- A program image is well formed when LOAD accepts it: at most 3584 bytes (00_scope.md R6, 70_reset_and_hazards.md
R131, R132). -/
def wellFormedImage (bytes : List Byte) : Bool :=
  bytes.length ≤ Config.maxProgramBytes

/-- The name of an instruction's row in spec/opcode_table.json. -/
def Instr.mnemonic : Instr → String
  | .cls => "CLS" | .ret => "RET" | .jp _ => "JP" | .call _ => "CALL"
  | .seImm _ _ => "SE_imm" | .sneImm _ _ => "SNE_imm" | .seReg _ _ => "SE_reg"
  | .ldImm _ _ => "LD_imm" | .addImm _ _ => "ADD_imm" | .ldReg _ _ => "LD_reg"
  | .orReg _ _ => "OR" | .andReg _ _ => "AND" | .xorReg _ _ => "XOR" | .addReg _ _ => "ADD_reg"
  | .sub _ _ => "SUB" | .shr _ _ => "SHR" | .subn _ _ => "SUBN" | .shl _ _ => "SHL"
  | .sneReg _ _ => "SNE_reg" | .ldI _ => "LD_I" | .jpV0 _ => "JP_V0" | .rnd _ _ => "RND"
  | .drw _ _ _ => "DRW" | .skp _ => "SKP" | .sknp _ => "SKNP" | .ldVxDt _ => "LD_Vx_DT"
  | .ldVxK _ => "LD_Vx_K" | .ldDtVx _ => "LD_DT_Vx" | .ldStVx _ => "LD_ST_Vx" | .addIVx _ => "ADD_I_Vx"
  | .ldFVx _ => "LD_F_Vx" | .ldBVx _ => "LD_B_Vx" | .ldIVx _ => "LD_I_Vx" | .ldVxI _ => "LD_Vx_I"

end Sys2Proof
end

