-- ==== Sys2Proof/Decode.lean ====
section
/-!
DEFINITION. The decoder, total on every word and on any bytes, and the encoder, both from 30_encoding.md R49 to R54.
-/
namespace Sys2Proof

/-! ## Fields of a word (30_encoding.md R49) -/

/-- F = w[15:12], the family. -/
def fieldF (w : Word) : BitVec 4 := w.extractLsb' 12 4

/-- x = w[11:8], a register index. The encoding patterns govern, not the prose (90_conflicts.md C2). -/
def fieldX (w : Word) : RegIdx := (w.extractLsb' 8 4).toFin

/-- y = w[7:4], a register index. -/
def fieldY (w : Word) : RegIdx := (w.extractLsb' 4 4).toFin

/-- n = w[3:0], a row count or a sub-operation. -/
def fieldN (w : Word) : BitVec 4 := w.extractLsb' 0 4

/-- kk = w[7:0], a byte immediate or a sub-operation. -/
def fieldKK (w : Word) : Byte := w.extractLsb' 0 8

/-- nnn = w[11:0], an address immediate. -/
def fieldNNN (w : Word) : Addr := w.extractLsb' 0 12

/-- The four bits of a register index or row count. -/
def nib (k : Fin 16) : BitVec 4 := BitVec.ofFin k

/-! ## Byte order (20_memory.md R35) -/

/-- The word of two fetched bytes: the byte at the lower address is the high byte. -/
def wordOfBytes (hi lo : Byte) : Word := hi ++ lo

/-- The byte of a word that lies at the lower address. -/
def hiByte (w : Word) : Byte := w.extractLsb' 8 8

/-- The byte of a word that lies at the higher address. -/
def loByte (w : Word) : Byte := w.extractLsb' 0 8

/-! ## The decoder -/

/-- Why bytes are not an instruction. -/
inductive DecodeError where
  /-- The word matches no row of the opcode table: UNKNOWN (30_encoding.md R54). STEP then reports UnknownOpcode and the
  machine goes on (40_step.md R66). -/
  | unknown (w : Word)
  /-- Fewer than the two bytes of a word were given (30_encoding.md R48). The machine never raises it: a fetch always has
  two bytes. -/
  | truncated
deriving DecidableEq, Repr

/-- Family 0x8: n selects the operation (30_encoding.md R53). -/
def decodeFamily8 (w : Word) : Except DecodeError Instr :=
  let x := fieldX w
  let y := fieldY w
  match fieldN w with
  | 0x0#4 => .ok (.ldReg x y)
  | 0x1#4 => .ok (.orReg x y)
  | 0x2#4 => .ok (.andReg x y)
  | 0x3#4 => .ok (.xorReg x y)
  | 0x4#4 => .ok (.addReg x y)
  | 0x5#4 => .ok (.sub x y)
  | 0x6#4 => .ok (.shr x y)
  | 0x7#4 => .ok (.subn x y)
  | 0xE#4 => .ok (.shl x y)
  | _ => .error (.unknown w)

/-- Family 0xF: kk selects the operation (30_encoding.md R53). -/
def decodeFamilyF (w : Word) : Except DecodeError Instr :=
  let x := fieldX w
  match fieldKK w with
  | 0x07#8 => .ok (.ldVxDt x)
  | 0x0A#8 => .ok (.ldVxK x)
  | 0x15#8 => .ok (.ldDtVx x)
  | 0x18#8 => .ok (.ldStVx x)
  | 0x1E#8 => .ok (.addIVx x)
  | 0x29#8 => .ok (.ldFVx x)
  | 0x33#8 => .ok (.ldBVx x)
  | 0x55#8 => .ok (.ldIVx x)
  | 0x65#8 => .ok (.ldVxI x)
  | _ => .error (.unknown w)

/-- The instruction a 16-bit word stands for (30_encoding.md R52, R53), or UNKNOWN (R54). Families 0x5 and 0x9 need
n = 0 (R53). -/
def decodeWord (w : Word) : Except DecodeError Instr :=
  let x := fieldX w
  let y := fieldY w
  let kk := fieldKK w
  let nnn := fieldNNN w
  match fieldF w with
  | 0x0#4 => if w = 0x00E0#16 then .ok .cls else if w = 0x00EE#16 then .ok .ret else .error (.unknown w)
  | 0x1#4 => .ok (.jp nnn)
  | 0x2#4 => .ok (.call nnn)
  | 0x3#4 => .ok (.seImm x kk)
  | 0x4#4 => .ok (.sneImm x kk)
  | 0x5#4 => if fieldN w = 0x0#4 then .ok (.seReg x y) else .error (.unknown w)
  | 0x6#4 => .ok (.ldImm x kk)
  | 0x7#4 => .ok (.addImm x kk)
  | 0x8#4 => decodeFamily8 w
  | 0x9#4 => if fieldN w = 0x0#4 then .ok (.sneReg x y) else .error (.unknown w)
  | 0xA#4 => .ok (.ldI nnn)
  | 0xB#4 => .ok (.jpV0 nnn)
  | 0xC#4 => .ok (.rnd x kk)
  | 0xD#4 => .ok (.drw x y (fieldN w).toFin)
  | 0xE#4 => if kk = 0x9E#8 then .ok (.skp x) else if kk = 0xA1#8 then .ok (.sknp x) else .error (.unknown w)
  | _ => decodeFamilyF w

/-- The decoder on bytes: an instruction is the first two of them (30_encoding.md R48), and the rest is handed back. -/
def decode : List Byte → Except DecodeError (Instr × List Byte)
  | hi :: lo :: rest =>
    match decodeWord (wordOfBytes hi lo) with
    | .ok i => .ok (i, rest)
    | .error e => .error e
  | _ => .error .truncated

/-! ## The encoder, from the layouts of 30_encoding.md R50 and the patterns of R52 and R53 -/

/-- Format nnn: F(4) nnn(12). -/
def formatNNN (f : BitVec 4) (nnn : Addr) : Word := f ++ nnn

/-- Format xkk: F(4) x(4) kk(8). -/
def formatXKK (f : BitVec 4) (x : RegIdx) (kk : Byte) : Word := f ++ nib x ++ kk

/-- Format xyn: F(4) x(4) y(4) n(4). -/
def formatXYN (f : BitVec 4) (x y : RegIdx) (n : BitVec 4) : Word := f ++ nib x ++ nib y ++ n

/-- The word of an instruction. -/
def encode : Instr → Word
  | .cls => 0x00E0#16
  | .ret => 0x00EE#16
  | .jp nnn => formatNNN 0x1#4 nnn
  | .call nnn => formatNNN 0x2#4 nnn
  | .seImm x kk => formatXKK 0x3#4 x kk
  | .sneImm x kk => formatXKK 0x4#4 x kk
  | .seReg x y => formatXYN 0x5#4 x y 0x0#4
  | .ldImm x kk => formatXKK 0x6#4 x kk
  | .addImm x kk => formatXKK 0x7#4 x kk
  | .ldReg x y => formatXYN 0x8#4 x y 0x0#4
  | .orReg x y => formatXYN 0x8#4 x y 0x1#4
  | .andReg x y => formatXYN 0x8#4 x y 0x2#4
  | .xorReg x y => formatXYN 0x8#4 x y 0x3#4
  | .addReg x y => formatXYN 0x8#4 x y 0x4#4
  | .sub x y => formatXYN 0x8#4 x y 0x5#4
  | .shr x y => formatXYN 0x8#4 x y 0x6#4
  | .subn x y => formatXYN 0x8#4 x y 0x7#4
  | .shl x y => formatXYN 0x8#4 x y 0xE#4
  | .sneReg x y => formatXYN 0x9#4 x y 0x0#4
  | .ldI nnn => formatNNN 0xA#4 nnn
  | .jpV0 nnn => formatNNN 0xB#4 nnn
  | .rnd x kk => formatXKK 0xC#4 x kk
  | .drw x y n => formatXYN 0xD#4 x y (nib n)
  | .skp x => formatXKK 0xE#4 x 0x9E#8
  | .sknp x => formatXKK 0xE#4 x 0xA1#8
  | .ldVxDt x => formatXKK 0xF#4 x 0x07#8
  | .ldVxK x => formatXKK 0xF#4 x 0x0A#8
  | .ldDtVx x => formatXKK 0xF#4 x 0x15#8
  | .ldStVx x => formatXKK 0xF#4 x 0x18#8
  | .addIVx x => formatXKK 0xF#4 x 0x1E#8
  | .ldFVx x => formatXKK 0xF#4 x 0x29#8
  | .ldBVx x => formatXKK 0xF#4 x 0x33#8
  | .ldIVx x => formatXKK 0xF#4 x 0x55#8
  | .ldVxI x => formatXKK 0xF#4 x 0x65#8

/-- The two bytes of an instruction as memory holds them, the lower address first (20_memory.md R35). -/
def encodeBytes (i : Instr) : List Byte := [hiByte (encode i), loByte (encode i)]

/-- The first word of a table row's bits: bit 0 is the least significant bit of that word, and every bit from `nbits` on
is 0. Every instruction is one word (30_encoding.md R48), so later bits belong to no instruction. -/
def tableWord (nbits w : Nat) : Word := BitVec.ofNat 16 (w % 2 ^ nbits)

/-- The instruction the decoder reads from an instruction whose bits are `w`, numbered as spec/opcode_table.json numbers
them. -/
def decodeTableWord (nbits w : Nat) : Option Instr :=
  match decode [hiByte (tableWord nbits w), loByte (tableWord nbits w)] with
  | .ok (i, _) => some i
  | .error _ => none

end Sys2Proof
end

