-- ==== Sys2Proof/Machine/Flags.lean ====
section
/-!
DEFINITION. The flag computations (43_alu.md R86): what the five flag-writing ALU instructions and Dxyn put into VF. All
operands are unsigned and each flag is computed from the operands as they were before the instruction.
-/
namespace Sys2Proof.Machine

/-- A condition as the byte written to VF (00_scope.md R10: b ? 1 : 0). -/
def flagByte (b : Bool) : Byte := if b then 1 else 0

/-- 8xy4: 1 when the exact sum is more than 255 (43_alu.md R93). -/
def carryOut (a b : Byte) : Bool := decide (a.toNat + b.toNat > 255)

/-- a - b needs no borrow, equality included (43_alu.md R94, R96). -/
def notBorrow (a b : Byte) : Bool := decide (a.toNat ≥ b.toNat)

/-- 8xy6: the bit a right shift by one shifts out, a[0] (43_alu.md R95). -/
def shiftedOutRight (a : Byte) : Bool := a.getLsbD 0

/-- 8xyE: the bit a left shift by one shifts out, a[7] (43_alu.md R97). -/
def shiftedOutLeft (a : Byte) : Bool := a.getLsbD 7

end Sys2Proof.Machine
end

