-- ==== Sys2Proof/Machine/Font.lean ====
section
/-!
DEFINITION. The font table and the contents of memory right after RESET (20_memory.md R38, 10_state.md R28).
-/
namespace Sys2Proof.Machine

/-- FONT: 16 glyphs of 5 bytes, the glyph of digit d at 5 * d (20_memory.md R38). PRESUMED (log entry 6): the spec itself
takes these bytes from general knowledge. Unsafe for claims about drawn digits. -/
def FONT : List Byte :=
  [0xF0, 0x90, 0x90, 0x90, 0xF0] ++ [0x20, 0x60, 0x20, 0x20, 0x70] ++
  [0xF0, 0x10, 0xF0, 0x80, 0xF0] ++ [0xF0, 0x10, 0xF0, 0x10, 0xF0] ++
  [0x90, 0x90, 0xF0, 0x10, 0x10] ++ [0xF0, 0x80, 0xF0, 0x10, 0xF0] ++
  [0xF0, 0x80, 0xF0, 0x90, 0xF0] ++ [0xF0, 0x10, 0x20, 0x40, 0x40] ++
  [0xF0, 0x90, 0xF0, 0x90, 0xF0] ++ [0xF0, 0x90, 0xF0, 0x10, 0xF0] ++
  [0xF0, 0x90, 0xF0, 0x90, 0x90] ++ [0xE0, 0x90, 0xE0, 0x90, 0xE0] ++
  [0xF0, 0x80, 0x80, 0x80, 0xF0] ++ [0xE0, 0x90, 0x90, 0x90, 0xE0] ++
  [0xF0, 0x80, 0xF0, 0x80, 0xF0] ++ [0xF0, 0x80, 0xF0, 0x80, 0x80]

/-- What a byte of memory reads as when nothing has been written to it since RESET: the font at 0x000..0x04F and zero
everywhere else (10_state.md R28, 70_reset_and_hazards.md R129). -/
def resetByte (a : Nat) : Byte := FONT.getD a 0

end Sys2Proof.Machine
end

