-- ==== Sys2Proof/Machine/State.lean ====
section
/-!
DEFINITION. The state of the machine as plain data: the fourteen elements of 10_state.md R13, the outputs of the most
recent command (40_step.md R58), and three fields of the model's own (log entries 1, 2 and 4).
-/
namespace Sys2Proof.Machine

/-- MODE (10_state.md R26): the interpreter's control state. It is no privilege mode (60_exceptions.md R119). -/
inductive Mode where
  /-- ready to fetch -/
  | ready
  /-- Fx0A is waiting for a key -/
  | waitKey
deriving DecidableEq, Repr

/-- The errors a command reports (60_exceptions.md R112). They are results, not state: the machine goes on (R114). -/
inductive Err where
  /-- no error -/
  | none
  /-- STEP fetched a word that decodes as UNKNOWN; carries OPC (40_step.md R66) -/
  | unknownOpcode (w : Word)
  /-- 2nnn at SP = 16; carries OPC (42_control_flow.md R75) -/
  | stackOverflow (w : Word)
  /-- 00EE at SP = 0; carries OPC (42_control_flow.md R76) -/
  | stackUnderflow (w : Word)
  /-- LOAD of more than 3584 bytes; carries the length (70_reset_and_hazards.md R132) -/
  | romTooLarge (len : Nat)
deriving DecidableEq, Repr

/-- The numeric code of an error (60_exceptions.md R112). -/
def Err.code : Err → Nat
  | .none => 0
  | .unknownOpcode _ => 1
  | .stackOverflow _ => 2
  | .stackUnderflow _ => 3
  | .romTooLarge _ => 4

/-- The info value of an error (60_exceptions.md R112). -/
def Err.info : Err → Option Nat
  | .none => Option.none
  | .unknownOpcode w => some w.toNat
  | .stackOverflow w => some w.toNat
  | .stackUnderflow w => some w.toNat
  | .romTooLarge len => some len

/-- M as listed data: (address, byte) pairs, addresses strictly rising, none equal to what an unlisted address reads as
(`resetByte`). `Memory.wf` says so. -/
abbrev Memory := List Host.Cell

/-- FB (10_state.md R22): 32 rows of 64 pixels, row-major; true is a lit pixel. -/
abbrev Framebuffer := Vector (Vector Bool 64) 32

/-- The framebuffer with every pixel 0. -/
def Framebuffer.clear : Framebuffer := Vector.replicate 32 (Vector.replicate 64 false)

/-- What a read accessor of the host returns (40_step.md R58). -/
inductive Reply where
  /-- the command returns no value of this kind -/
  | nothing
  /-- READ_FB: the 64 x 32 bits of FB (60_exceptions.md R124) -/
  | frame (fb : Framebuffer)
  /-- READ_REDRAW: the bit REDRAW (60_exceptions.md R125) -/
  | redraw (b : Bool)
  /-- READ_TONE: the bit TONE (60_exceptions.md R121) -/
  | tone (b : Bool)
deriving DecidableEq, Repr

/-- The commands of the host (40_step.md R58), with their inputs. STEP's input RAND is the free value `Config.rand` (log
entry 2). A key index outside 0..15 cannot be expressed (60_exceptions.md R123). -/
inductive Command where
  | reset
  | load (bytes : List Byte)
  | step
  | tick
  | setKey (k : RegIdx) (p : Bool)
  | readFb
  | readRedraw
  | clearRedraw
  | readTone
deriving DecidableEq, Repr

/-- The state of the machine. -/
structure State where
  /-- V[0..15] (10_state.md R14); V[15] is VF, the flag register (R15) -/
  v : Vector Byte 16
  /-- PC (10_state.md R16) -/
  pc : Word
  /-- I (10_state.md R17) -/
  i : Word
  /-- S[0..15] (10_state.md R18) -/
  stack : Vector Word 16
  /-- SP (10_state.md R19): how many entries are valid, 0..16 -/
  sp : Fin 17
  /-- DT (10_state.md R20) -/
  dt : Byte
  /-- ST (10_state.md R21) -/
  st : Byte
  /-- M[0..4095] (10_state.md R28) -/
  mem : Memory
  /-- FB (10_state.md R22) -/
  fb : Framebuffer
  /-- REDRAW (10_state.md R23) -/
  redraw : Bool
  /-- KEY[0..15] (10_state.md R24); true is pressed -/
  key : Vector Bool 16
  /-- OPC (10_state.md R25) -/
  opc : Word
  /-- MODE (10_state.md R26) -/
  mode : Mode
  /-- WAITX (10_state.md R27) -/
  waitx : RegIdx
  /-- output `changed` of the most recent command (40_step.md R62; log entry 3) -/
  changed : Bool
  /-- output `err` of the most recent command (60_exceptions.md R113; log entry 3) -/
  err : Err
  /-- the value the most recent command returned, if it was a read accessor (40_step.md R58; log entry 3) -/
  reply : Reply
  /-- the model's own: how many RAND draws have been made (log entry 2) -/
  draws : Nat
  /-- the model's own: the host's coming commands, the next one first (log entry 1) -/
  pending : List Command
  /-- the model's own: a RESET has completed (70_reset_and_hazards.md R134; log entry 4) -/
  resetDone : Bool
deriving DecidableEq, Repr

/-- Why a step stops the machine with a fault: never. The block has no faults and no traps, and every error leaves it
running (60_exceptions.md R114, R117), so this type has no constructor. Safe: it says the machine never stops by a fault,
as the spec does. -/
inductive Fault where
deriving DecidableEq, Repr

/-- Why a command has no meaning. -/
inductive Refusal where
  /-- Raised by an arm of `exec` whose instruction has no meaning yet; no arm of this model raises it. Safe. -/
  | notModelled (mnemonic : String)
  /-- Raised by `performCommand` for every command but RESET before the first RESET has completed
  (70_reset_and_hazards.md R134: the model "should refuse every command other than RESET"). Safe: no claim can depend on
  a power-on value. -/
  | beforeReset
deriving DecidableEq, Repr

/-- The machine right after RESET (70_reset_and_hazards.md R129). `draws` and `pending` are the model's own (DESIGN
CHOICE, log entries 1 and 2). -/
def State.reset : State where
  v := Vector.replicate 16 0
  pc := BitVec.ofNat 16 Config.progBase
  i := 0
  stack := Vector.replicate 16 0
  sp := 0
  dt := 0
  st := 0
  mem := []
  fb := Framebuffer.clear
  redraw := false
  key := Vector.replicate 16 false
  opc := 0
  mode := .ready
  waitx := 0
  changed := false
  err := .none
  reply := .nothing
  draws := 0
  pending := []
  resetDone := true

end Sys2Proof.Machine
end

