-- ==== Sys2Proof/Machine/Ops.lean ====
section
/-!
DEFINITION. The named operations over memory, registers, stack, framebuffer, program counter and command outputs. Every
meaning reads and writes the state through them.
-/
namespace Sys2Proof.Machine

/-! ## Memory (20_memory.md R32, R33) -/

/-- The canonical form of listed memory: addresses strictly rising, each below 4096, and no entry equal to what its
address reads as unlisted. -/
abbrev Memory.wf (m : Memory) : Prop :=
  m.Pairwise (fun p q => p.1 < q.1) ∧ ∀ c ∈ m, c.1 < Config.memSize ∧ c.2 ≠ resetByte c.1

/-- The byte at an address of the list. -/
def Memory.get : Memory → Nat → Byte
  | [], a => resetByte a
  | (k, b) :: m, a => if k = a then b else Memory.get m a

/-- The list with the entry (a, b), in its place. -/
def Memory.insert (a : Nat) (b : Byte) : Memory → Memory
  | [] => [(a, b)]
  | (k, c) :: m =>
    if a < k then (a, b) :: (k, c) :: m
    else if a = k then (a, b) :: m
    else (k, c) :: Memory.insert a b m

/-- Write one byte. A byte equal to the reset contents is not listed. -/
def Memory.put (m : Memory) (a : Nat) (b : Byte) : Memory :=
  if b = resetByte a then m.filter (fun c => c.1 ≠ a) else Memory.insert a b m

/-- The one cell an address names: the address mod 4096 (20_memory.md R32). -/
def cellOf (addr : Nat) : Nat := addr % Config.memSize

/-- `MemRead(addr, 1)` (20_memory.md R32): never fails. -/
def State.memRead (s : State) (addr : Nat) : Byte := Memory.get s.mem (cellOf addr)

/-- `MemWrite(addr, 1, b)` (20_memory.md R33): never fails, changes one byte. -/
def State.memWrite (s : State) (addr : Nat) (b : Byte) : State :=
  { s with mem := Memory.put s.mem (cellOf addr) b }

/-- `MemWrite` of consecutive bytes from an address upward. -/
def State.memWriteAll (s : State) : Nat → List Byte → State
  | _, [] => s
  | addr, b :: bs => (s.memWrite addr b).memWriteAll (addr + 1) bs

/-! ## Registers (10_state.md R14, R15) -/

/-- V[k]. -/
def State.reg (s : State) (k : RegIdx) : Byte := s.v[k.val]

/-- V[k] <- b. -/
def State.setReg (s : State) (k : RegIdx) (b : Byte) : State := { s with v := s.v.set k.val b }

/-- The index of VF. -/
abbrev vf : RegIdx := 15

/-- V[x] <- result, then VF <- flag: the flag is written last, so it remains when x = 0xF (43_alu.md R86). -/
def State.setRegFlag (s : State) (x : RegIdx) (result : Byte) (flag : Bool) : State :=
  (s.setReg x result).setReg vf (flagByte flag)

/-- I <- w (10_state.md R17). -/
def State.setI (s : State) (w : Word) : State := { s with i := w }

/-- DT <- b (10_state.md R20). -/
def State.setDt (s : State) (b : Byte) : State := { s with dt := b }

/-- ST <- b (10_state.md R21). -/
def State.setSt (s : State) (b : Byte) : State := { s with st := b }

/-! ## Program counter (40_step.md R63, R64) -/

/-- PC <- target. -/
def State.setPc (s : State) (target : Word) : State := { s with pc := target }

/-- PC <- (PC + 2) mod 65536, when the condition holds (40_step.md R64). -/
def State.skipIf (s : State) (cond : Bool) : State := if cond then s.setPc (s.pc + 2) else s

/-- PC <- (PC - 2) mod 65536, WAITX <- x, MODE <- WaitKey: back to the Fx0A, to wait (45_keys_timers.md R109). -/
def State.holdForKey (s : State) (x : RegIdx) : State := { s with pc := s.pc - 2, waitx := x, mode := .waitKey }

/-- PC <- (PC + 2) mod 65536, MODE <- Ready: past the Fx0A, to go on (40_step.md R61). -/
def State.resume (s : State) : State := { s with pc := s.pc + 2, mode := .ready }

/-! ## Command outputs and errors (40_step.md R62, 60_exceptions.md R113) -/

/-- The outputs as a command begins: changed = 0, err = None, nothing returned (40_step.md R60; log entry 3). -/
def State.beginCommand (s : State) : State := { s with changed := false, err := .none, reply := .nothing }

/-- `raise E(info)` (60_exceptions.md R113): report the error in the result of the command. No register is saved, no mode
changes, nothing is transferred to: the block has no trap entry (R117) and no trap return (R118). -/
def State.raise (s : State) (e : Err) : State := { s with err := e }

/-! ## Stack (42_control_flow.md R75, R76) -/

/-- `Push(v)`: the status and the state after. At SP = 16 it raises StackOverflow(OPC) and changes neither S nor SP. -/
def State.push (s : State) (v : Word) : Bool × State :=
  if h : s.sp.val < 16 then
    (true, { s with stack := s.stack.set s.sp.val v, sp := ⟨s.sp.val + 1, by omega⟩ })
  else (false, s.raise (.stackOverflow s.opc))

/-- `Pop()`: the status, the value and the state after. At SP = 0 it raises StackUnderflow(OPC). The entry read keeps
its value (10_state.md R18). -/
def State.pop (s : State) : Option Word × State :=
  if h : 0 < s.sp.val then
    (some (s.stack[s.sp.val - 1]), { s with sp := ⟨s.sp.val - 1, by omega⟩ })
  else (none, s.raise (.stackUnderflow s.opc))

/-! ## Framebuffer (10_state.md R22) -/

/-- FB[c][r], the pixel in column c and row r. -/
def Framebuffer.pixel (fb : Framebuffer) (c : Fin 64) (r : Fin 32) : Bool := fb[r.val][c.val]

/-- FB[c][r] <- FB[c][r] XOR 1. -/
def Framebuffer.flip (fb : Framebuffer) (c : Fin 64) (r : Fin 32) : Framebuffer :=
  fb.set r.val (fb[r.val].set c.val (!fb.pixel c r))

/-- REDRAW <- 1 and changed <- 1, as every 00E0 and every Dxyn does (41_display.md R74). -/
def State.displayed (s : State) (fb : Framebuffer) : State := { s with fb := fb, redraw := true, changed := true }

/-! ## Fetch (40_step.md R60, 20_memory.md R35) -/

/-- The word at PC: two bytes, the high byte at PC and the low byte at PC + 1, each address mod 4096. -/
def State.fetchWord (s : State) : Word := wordOfBytes (s.memRead s.pc.toNat) (s.memRead (s.pc.toNat + 1))

/-- The state as an instruction begins: outputs cleared, OPC latched, the baseline advance done (40_step.md R60, R63). -/
def State.fetched (s : State) : State := { s.beginCommand with opc := s.fetchWord, pc := s.pc + 2 }

end Sys2Proof.Machine
end

