-- ==== Sys2Proof/Machine/Operands.lean ====
section
/-!
DEFINITION. The operand forms: extended immediates, addresses through I, key and digit numbers, BCD digits.
-/
namespace Sys2Proof.Machine

/-- zext_16(nnn) (30_encoding.md R51). -/
def zext16 (nnn : Addr) : Word := nnn.setWidth 16

/-- I + k, the address of the k-th byte of an access through I (44_index_memory.md R102 to R104, 41_display.md R71).
`memRead` and `memWrite` reduce it mod 4096. -/
def State.indexAddr (s : State) (k : Nat) : Nat := s.i.toNat + k

/-- The key or hex digit a register value names: its low nibble (45_keys_timers.md R105, 44_index_memory.md R101). -/
def lowNibble (b : Byte) : Fin 16 := Fin.ofNat 16 b.toNat

/-- KEY[k]. -/
def State.keyDown (s : State) (k : RegIdx) : Bool := s.key[k.val]

/-- The smallest k with KEY[k] = 1, if some key is pressed (45_keys_timers.md R109). -/
def State.firstKey (s : State) : Option RegIdx := (List.finRange 16).find? s.keyDown

/-- A key number as the byte stored into a register. -/
def keyByte (k : RegIdx) : Byte := BitVec.ofNat 8 k.val

/-- The address of the glyph of digit d: 0x000 + 5 * d (44_index_memory.md R101). -/
def glyphAddr (d : Fin 16) : Word := BitVec.ofNat 16 (5 * d.val)

/-- The BCD digits of a byte: hundreds, tens, ones (44_index_memory.md R102). -/
def bcdDigits (b : Byte) : List Byte :=
  [BitVec.ofNat 8 (b.toNat / 100), BitVec.ofNat 8 (b.toNat / 10 % 10), BitVec.ofNat 8 (b.toNat % 10)]

/-- V0..Vn-1 in order: the registers a block store of n registers stores (44_index_memory.md R103). -/
def State.firstRegs (s : State) (n : Nat) : List Byte := s.v.toList.take n

/-- `for k in 0 .. n-1: V[k] <- MemRead(I + k, 1)` (44_index_memory.md R104). -/
def State.loadRegs (s : State) : Nat → State
  | 0 => s
  | n + 1 => (s.loadRegs n).setReg (Fin.ofNat 16 n) (s.memRead (s.indexAddr n))

end Sys2Proof.Machine
end

