-- ==== Sys2Proof/Machine/ControlFlow.lean ====
section
/-!
DEFINITION. Stack, jumps, calls, returns and skips (42_control_flow.md). Each runs after STEP's baseline advance, so PC
holds the instruction's address + 2 (40_step.md R63).
-/
namespace Sys2Proof.Machine

/-- 00EE (42_control_flow.md R77). On StackUnderflow PC keeps the baseline advance. -/
def execRet (s : State) : Host.Outcome State Fault Refusal :=
  match s.pop with
  | (some v, t) => .next (t.setPc v)
  | (none, t) => .next t

/-- 1nnn (42_control_flow.md R78). -/
def execJp (nnn : Addr) (s : State) : Host.Outcome State Fault Refusal := .next (s.setPc (zext16 nnn))

/-- 2nnn (42_control_flow.md R79). On StackOverflow there is no jump and PC keeps the baseline advance. -/
def execCall (nnn : Addr) (s : State) : Host.Outcome State Fault Refusal :=
  match s.push s.pc with
  | (true, t) => .next (t.setPc (zext16 nnn))
  | (false, t) => .next t

/-- 3xkk (42_control_flow.md R80). -/
def execSeImm (x : RegIdx) (kk : Byte) (s : State) : Host.Outcome State Fault Refusal :=
  .next (s.skipIf (s.reg x == kk))

/-- 4xkk (42_control_flow.md R81). -/
def execSneImm (x : RegIdx) (kk : Byte) (s : State) : Host.Outcome State Fault Refusal :=
  .next (s.skipIf (s.reg x != kk))

/-- 5xy0 (42_control_flow.md R82). -/
def execSeReg (x y : RegIdx) (s : State) : Host.Outcome State Fault Refusal :=
  .next (s.skipIf (s.reg x == s.reg y))

/-- 9xy0 (42_control_flow.md R83). -/
def execSneReg (x y : RegIdx) (s : State) : Host.Outcome State Fault Refusal :=
  .next (s.skipIf (s.reg x != s.reg y))

/-- Bnnn (42_control_flow.md R84): the base register is always V0, and the sum is taken mod 65536. -/
def execJpV0 (nnn : Addr) (s : State) : Host.Outcome State Fault Refusal :=
  .next (s.setPc (zext16 nnn + (s.reg 0).setWidth 16))

end Sys2Proof.Machine
end

