-- ==== Sys2Proof/Machine/Display.lean ====
section
/-!
DEFINITION. 00E0 and Dxyn (41_display.md).
-/
namespace Sys2Proof.Machine

/-- One pixel of a sprite row (41_display.md R71): `b` is the row byte, `c0` the origin column, `row` the row, `c` the
column offset, and the pair is the framebuffer and the collision so far. Bit 7 - c of the byte is the pixel (R69). A
pixel past column 63 or row 31 is clipped: neither drawn nor tested (R73). -/
def blitPixel (b : Byte) (c0 row c : Nat) (acc : Framebuffer × Bool) : Framebuffer × Bool :=
  if h : b.getLsbD (7 - c) = true ∧ c0 + c < 64 ∧ row < 32 then
    (acc.1.flip ⟨c0 + c, h.2.1⟩ ⟨row, h.2.2⟩, acc.2 || acc.1.pixel ⟨c0 + c, h.2.1⟩ ⟨row, h.2.2⟩)
  else acc

/-- Column offsets 0 .. n-1 of a sprite row, in order (41_display.md R71). -/
def blitRow (b : Byte) (c0 row : Nat) : Nat → Framebuffer × Bool → Framebuffer × Bool
  | 0, acc => acc
  | c + 1, acc => blitPixel b c0 row c (blitRow b c0 row c acc)

/-- Rows 0 .. n-1 of the sprite at I, in order (41_display.md R71). -/
def State.blitRows (s : State) (c0 r0 : Nat) : Nat → Framebuffer × Bool → Framebuffer × Bool
  | 0, acc => acc
  | r + 1, acc => blitRow (s.memRead (s.indexAddr r)) c0 (r0 + r) 8 (s.blitRows c0 r0 r acc)

/-- The framebuffer after a draw, and whether some pixel went from 1 to 0 (41_display.md R71, R72). The origin wraps:
V[x] mod 64 and V[y] mod 32 (R73). -/
def State.blit (s : State) (x y : RegIdx) (n : Fin 16) : Framebuffer × Bool :=
  s.blitRows ((s.reg x).toNat % 64) ((s.reg y).toNat % 32) n.val (s.fb, false)

/-- 00E0 (41_display.md R70). -/
def execCls (s : State) : Host.Outcome State Fault Refusal := .next (s.displayed Framebuffer.clear)

/-- Dxyn (41_display.md R71): VF is written last, whatever n is. -/
def execDrw (x y : RegIdx) (n : Fin 16) (s : State) : Host.Outcome State Fault Refusal :=
  .next ((s.displayed (s.blit x y n).1).setReg vf (flagByte (s.blit x y n).2))

end Sys2Proof.Machine
end

