-- ==== Sys2Proof/Machine/IndexMemory.lean ====
section
/-!
DEFINITION. The index register and the memory transfers through it (44_index_memory.md). No access changes I.
-/
namespace Sys2Proof.Machine

/-- Annn (44_index_memory.md R99). -/
def execLdI (nnn : Addr) (s : State) : Host.Outcome State Fault Refusal := .next (s.setI (zext16 nnn))

/-- Fx1E (44_index_memory.md R100): mod 65536, VF not written. -/
def execAddIVx (x : RegIdx) (s : State) : Host.Outcome State Fault Refusal :=
  .next (s.setI (s.i + (s.reg x).setWidth 16))

/-- Fx29 (44_index_memory.md R101). -/
def execLdFVx (x : RegIdx) (s : State) : Host.Outcome State Fault Refusal :=
  .next (s.setI (glyphAddr (lowNibble (s.reg x))))

/-- Fx33 (44_index_memory.md R102): hundreds at I, tens at I + 1, ones at I + 2. -/
def execLdBVx (x : RegIdx) (s : State) : Host.Outcome State Fault Refusal :=
  .next (s.memWriteAll (s.indexAddr 0) (bcdDigits (s.reg x)))

/-- Fx55 (44_index_memory.md R103): V0..Vx inclusive from I upward. -/
def execLdIVx (x : RegIdx) (s : State) : Host.Outcome State Fault Refusal :=
  .next (s.memWriteAll (s.indexAddr 0) (s.firstRegs (x.val + 1)))

/-- Fx65 (44_index_memory.md R104): V0..Vx inclusive from I upward. -/
def execLdVxI (x : RegIdx) (s : State) : Host.Outcome State Fault Refusal := .next (s.loadRegs (x.val + 1))

end Sys2Proof.Machine
end

