-- ==== Sys2Proof/Machine/Cycle.lean ====
section
/-!
DEFINITION. The STEP state machine (40_step.md) and the other commands of the host (60_exceptions.md, 70_reset_and_hazards.md).
-/
namespace Sys2Proof.Machine

/-! ## STEP -/

/-- STEP with MODE = Ready (40_step.md R60): fetch, advance, decode, execute. An UNKNOWN word only reports
UnknownOpcode(OPC) (R66). -/
def stepReady (s : State) : Host.Outcome State Fault Refusal :=
  match decodeWord s.fetched.opc with
  | .ok i => exec i s.fetched
  | .error _ => .next (s.fetched.raise (.unknownOpcode s.fetched.opc))

/-- STEP with MODE = WaitKey (40_step.md R61), outputs already cleared: poll the keypad, without a fetch. -/
def stepWaiting (s : State) : State :=
  match s.firstKey with
  | some k => (s.setReg s.waitx (keyByte k)).resume
  | none => s

/-- STEP (40_step.md R60, R61). -/
def stepCommand (s : State) : Host.Outcome State Fault Refusal :=
  match s.mode with
  | .ready => stepReady s
  | .waitKey => .next (stepWaiting s.beginCommand)

/-! ## The other commands -/

/-- RESET (70_reset_and_hazards.md R129): nothing of the block's state survives. The model's own draw counter and list of
coming commands are not the block's and stay (log entries 1 and 2). -/
def resetCommand (s : State) : State := { State.reset with draws := s.draws, pending := s.pending }

/-- LOAD (70_reset_and_hazards.md R131, R132). -/
def loadCommand (bytes : List Byte) (s : State) : State :=
  if wellFormedImage bytes then s.beginCommand.memWriteAll Config.progBase bytes
  else s.beginCommand.raise (.romTooLarge bytes.length)

/-- One timer counted down by 1, floored at 0 (60_exceptions.md R120). -/
def countDown (t : Byte) : Byte := if t = 0 then 0 else t - 1

/-- TICK (60_exceptions.md R120). -/
def tickCommand (s : State) : State := { s.beginCommand with dt := countDown s.dt, st := countDown s.st }

/-- SET_KEY (60_exceptions.md R123). -/
def setKeyCommand (k : RegIdx) (p : Bool) (s : State) : State := { s.beginCommand with key := s.key.set k.val p }

/-- TONE (60_exceptions.md R121). -/
def State.tone (s : State) : Bool := s.st != 0

/-- READ_FB (60_exceptions.md R124). -/
def readFbCommand (s : State) : State := { s.beginCommand with reply := .frame s.fb }

/-- READ_REDRAW (60_exceptions.md R125). -/
def readRedrawCommand (s : State) : State := { s.beginCommand with reply := .redraw s.redraw }

/-- CLEAR_REDRAW (60_exceptions.md R125). -/
def clearRedrawCommand (s : State) : State := { s.beginCommand with redraw := false }

/-- READ_TONE (60_exceptions.md R121). -/
def readToneCommand (s : State) : State := { s.beginCommand with reply := .tone s.tone }

/-- One command of the host, once a RESET has completed (40_step.md R58). -/
def runCommand (c : Command) (s : State) : Host.Outcome State Fault Refusal :=
  match c with
  | .reset => .next (resetCommand s)
  | .load bytes => .next (loadCommand bytes s)
  | .step => stepCommand s
  | .tick => .next (tickCommand s)
  | .setKey k p => .next (setKeyCommand k p s)
  | .readFb => .next (readFbCommand s)
  | .readRedraw => .next (readRedrawCommand s)
  | .clearRedraw => .next (clearRedrawCommand s)
  | .readTone => .next (readToneCommand s)

/-- One command of the host. Before the first RESET every command but RESET is refused (70_reset_and_hazards.md R134). -/
def performCommand (c : Command) (s : State) : Host.Outcome State Fault Refusal :=
  if s.resetDone || c == .reset then runCommand c s else .refused .beforeReset

/-- The command the host issues next, taken from the list of coming commands; when that is empty the host issues STEP
(log entry 1). -/
def State.nextCommand (s : State) : Command := s.pending.headD .step

/-- The state with the next command taken off the list. -/
def State.takeCommand (s : State) : State := { s with pending := s.pending.tail }

/-- One transition: the next command of the host (00_scope.md R5). -/
def cycle (s : State) : Host.Outcome State Fault Refusal := performCommand s.nextCommand s.takeCommand

/-- The state in which the next transition is a STEP that fetches: Ready, after a RESET, no other command before it. -/
def State.aboutToFetch (s : State) : State := { s with mode := .ready, pending := [], resetDone := true }

/-- The state with a word stored at PC, high byte first, as LOAD or a store would leave it (20_memory.md R35). -/
def State.storeAtPc (s : State) (w : Word) : State :=
  s.memWriteAll s.pc.toNat [hiByte w, loByte w]

end Sys2Proof.Machine
end

