-- ==== Sys2Proof/Machine/Step.lean ====
section
/-!
DEFINITION. The step of the machine: one command of the host (00_scope.md R5), which is STEP unless `pending` names
another.
-/
namespace Sys2Proof.Machine

/-- One transition. -/
def step (s : State) : Host.Outcome State Fault Refusal := cycle s

/-- `s` with an instruction's word, numbered as spec/opcode_table.json numbers it, stored at PC, and the next transition a
STEP that fetches it. This stands for a LOAD from outside (log entry 5). -/
def State.withFetchWord (s : State) (nbits w : Nat) : State := (s.aboutToFetch).storeAtPc (tableWord nbits w)

end Sys2Proof.Machine
end

