-- ==== Sys2Proof/Safety.lean ====
section
/-!
DEFINITION. The terms the statements are written in: which part of the state an instruction may write (10_state.md R31),
what "unchanged" means, the invariant of the machine, parked states (40_step.md R68), and runs with their reported errors
(60_exceptions.md R114).
-/
namespace Sys2Proof.Machine

/-! ## Parts of the state -/

/-- The parts of State, one for each of its fields. -/
inductive Part where
  | v | pc | i | stack | sp | dt | st | mem | fb | redraw | key | opc | mode | waitx
  | changed | err | reply | draws | pending | resetDone
deriving DecidableEq, Repr

/-- The part holds the same in both states: registers, memory, pixels, keys and stack entries are compared one by one. -/
def Same (p : Part) (s t : State) : Prop :=
  match p with
  | .v => ∀ k, t.reg k = s.reg k
  | .pc => t.pc = s.pc
  | .i => t.i = s.i
  | .stack => ∀ k : Fin 16, t.stack[k.val] = s.stack[k.val]
  | .sp => t.sp = s.sp
  | .dt => t.dt = s.dt
  | .st => t.st = s.st
  | .mem => ∀ a, t.memRead a = s.memRead a
  | .fb => ∀ c r, t.fb.pixel c r = s.fb.pixel c r
  | .redraw => t.redraw = s.redraw
  | .key => ∀ k, t.keyDown k = s.keyDown k
  | .opc => t.opc = s.opc
  | .mode => t.mode = s.mode
  | .waitx => t.waitx = s.waitx
  | .changed => t.changed = s.changed
  | .err => t.err = s.err
  | .reply => t.reply = s.reply
  | .draws => t.draws = s.draws
  | .pending => t.pending = s.pending
  | .resetDone => t.resetDone = s.resetDone

/-- Every part but the listed ones is the same in both states. -/
def UnchangedBut (ps : List Part) (s t : State) : Prop := ∀ p, p ∉ ps → Same p s t

/-- Every general register but those of which `dest` holds is the same in both states. -/
def RegsUnchangedBut (dest : RegIdx → Prop) (s t : State) : Prop := ∀ k, ¬ dest k → t.reg k = s.reg k

/-- Every byte of memory outside the cells of the listed addresses reads the same in both states. -/
def BytesUnchangedBut (addrs : List Nat) (s t : State) : Prop :=
  ∀ a, (∀ b ∈ addrs, cellOf a ≠ cellOf b) → t.memRead a = s.memRead a

/-- The outputs of a command, the parts a command sets anew as it begins. -/
abbrev outputs : List Part := [.changed, .err, .reply]

/-! ## What an instruction may write -/

/-- The parts an instruction may write after the baseline advance: its row of 10_state.md R31, with the outputs of
40_step.md R62 and the model's own draw counter. -/
def written : Instr → List Part
  | .cls => [.fb, .redraw, .changed]
  | .ret => [.pc, .sp, .err]
  | .jp _ | .jpV0 _ => [.pc]
  | .call _ => [.pc, .stack, .sp, .err]
  | .seImm _ _ | .sneImm _ _ | .seReg _ _ | .sneReg _ _ | .skp _ | .sknp _ => [.pc]
  | .ldImm _ _ | .addImm _ _ | .ldReg _ _ | .orReg _ _ | .andReg _ _ | .xorReg _ _ => [.v]
  | .addReg _ _ | .sub _ _ | .shr _ _ | .subn _ _ | .shl _ _ => [.v]
  | .rnd _ _ => [.v, .draws]
  | .drw _ _ _ => [.v, .fb, .redraw, .changed]
  | .ldVxDt _ | .ldVxI _ => [.v]
  | .ldVxK _ => [.v, .pc, .mode, .waitx]
  | .ldDtVx _ => [.dt]
  | .ldStVx _ => [.st]
  | .ldI _ | .addIVx _ | .ldFVx _ => [.i]
  | .ldBVx _ | .ldIVx _ => [.mem]

/-- The general registers an instruction may write: its destination, and VF where it writes a flag (10_state.md R15). -/
def destReg (i : Instr) (k : RegIdx) : Prop :=
  match i with
  | .ldImm x _ | .addImm x _ | .ldReg x _ | .orReg x _ | .andReg x _ | .xorReg x _ | .rnd x _ | .ldVxDt x | .ldVxK x => k = x
  | .addReg x _ | .sub x _ | .shr x _ | .subn x _ | .shl x _ => k = x ∨ k = vf
  | .drw _ _ _ => k = vf
  | .ldVxI x => k ≤ x
  | .cls | .ret | .jp _ | .jpV0 _ | .call _ | .seImm _ _ | .sneImm _ _ | .seReg _ _ | .sneReg _ _ | .skp _ | .sknp _ => False
  | .ldDtVx _ | .ldStVx _ | .ldI _ | .addIVx _ | .ldFVx _ | .ldBVx _ | .ldIVx _ => False

/-- The addresses an instruction stores to, with the operand form its meaning uses (44_index_memory.md R102, R103). -/
def storeAddrs (i : Instr) (s : State) : List Nat :=
  match i with
  | .ldBVx _ => [s.indexAddr 0, s.indexAddr 1, s.indexAddr 2]
  | .ldIVx x => (List.range (x.val + 1)).map s.indexAddr
  | .cls | .ret | .jp _ | .jpV0 _ | .call _ | .seImm _ _ | .sneImm _ _ | .seReg _ _ | .sneReg _ _ | .skp _ | .sknp _ => []
  | .ldImm _ _ | .addImm _ _ | .ldReg _ _ | .orReg _ _ | .andReg _ _ | .xorReg _ _ | .rnd _ _ | .drw _ _ _ => []
  | .addReg _ _ | .sub _ _ | .shr _ _ | .subn _ _ | .shl _ _ | .ldVxDt _ | .ldVxK _ | .ldVxI _ => []
  | .ldDtVx _ | .ldStVx _ | .ldI _ | .addIVx _ | .ldFVx _ => []

/-- The instruction writes VF as a flag (10_state.md R15). -/
def writesFlag : Instr → Bool
  | .addReg _ _ | .sub _ _ | .shr _ _ | .subn _ _ | .shl _ _ | .drw _ _ _ => true
  | .cls | .ret | .jp _ | .jpV0 _ | .call _ | .seImm _ _ | .sneImm _ _ | .seReg _ _ | .sneReg _ _ | .skp _ | .sknp _ => false
  | .ldImm _ _ | .addImm _ _ | .ldReg _ _ | .orReg _ _ | .andReg _ _ | .xorReg _ _ | .rnd _ _ => false
  | .ldVxDt _ | .ldVxK _ | .ldDtVx _ | .ldStVx _ | .ldI _ | .addIVx _ | .ldFVx _ | .ldBVx _ | .ldIVx _ | .ldVxI _ => false

/-- The instruction names VF as its destination register (10_state.md R15: x = 0xF in 6xkk, 7xkk, 8xy0..8xy3, Cxkk, Fx07,
Fx0A, Fx65). -/
def namesVf : Instr → Bool
  | .ldImm x _ | .addImm x _ | .ldReg x _ | .orReg x _ | .andReg x _ | .xorReg x _ | .rnd x _ => x == vf
  | .ldVxDt x | .ldVxK x | .ldVxI x => x == vf
  | .addReg _ _ | .sub _ _ | .shr _ _ | .subn _ _ | .shl _ _ | .drw _ _ _ => false
  | .cls | .ret | .jp _ | .jpV0 _ | .call _ | .seImm _ _ | .sneImm _ _ | .seReg _ _ | .sneReg _ _ | .skp _ | .sknp _ => false
  | .ldDtVx _ | .ldStVx _ | .ldI _ | .addIVx _ | .ldFVx _ | .ldBVx _ | .ldIVx _ => false

/-- k is the smallest pressed key (45_keys_timers.md R109). -/
def SmallestKey (s : State) (k : RegIdx) : Prop := s.keyDown k = true ∧ ∀ j < k, s.keyDown j = false

/-- No key is pressed. -/
def NoKey (s : State) : Prop := ∀ k, s.keyDown k = false

/-! ## Sprites -/

/-- The sprite of Dxyn has a 1 bit for the visible pixel (c, r): the pixel lies in the 8 columns and n rows from the
wrapped origin, and its bit of its row byte is 1, bit 7 being the leftmost (41_display.md R69, R71, R73). -/
def spriteBit (s : State) (x y : RegIdx) (n : Fin 16) (c : Fin 64) (r : Fin 32) : Bool :=
  let c0 := (s.reg x).toNat % 64
  let r0 := (s.reg y).toNat % 32
  decide (c0 ≤ c.val ∧ c.val < c0 + 8 ∧ r0 ≤ r.val ∧ r.val < r0 + n.val) &&
    (s.memRead (s.indexAddr (r.val - r0))).getLsbD (7 - (c.val - c0))

/-! ## The invariant -/

/-- What an error output says about the state it comes with (60_exceptions.md R112). -/
def ErrJustified (s : State) : Prop :=
  match s.err with
  | .none => True
  | .unknownOpcode w => w = s.opc ∧ wellFormedWord w = false
  | .stackOverflow w => w = s.opc ∧ s.sp = 16 ∧ ∃ nnn, w = encode (.call nnn)
  | .stackUnderflow w => w = s.opc ∧ s.sp = 0 ∧ w = encode .ret
  | .romTooLarge len => Config.maxProgramBytes < len

/-- The invariant of the machine. -/
structure Inv (s : State) : Prop where
  /-- memory is in its canonical form -/
  mem : s.mem.wf
  /-- in MODE WaitKey, OPC is the word of the Fx0A whose destination is WAITX (10_state.md R25, R27) -/
  waiting : s.mode = .waitKey → s.opc = encode (.ldVxK s.waitx)
  /-- a command that reports a changed framebuffer leaves REDRAW set and reports no error (41_display.md R74) -/
  changed : s.changed = true → s.redraw = true ∧ s.err = .none
  /-- a reported error is one the state bears out (60_exceptions.md R112) -/
  err : ErrJustified s

/-! ## Parked states, stale stack entries, runs -/

/-- A parked state (40_step.md R68): MODE = Ready and the word at PC is 1nnn with nnn = PC. -/
def Parked (s : State) : Prop := s.mode = .ready ∧ ∃ nnn, s.fetchWord = encode (.jp nnn) ∧ zext16 nnn = s.pc

/-- The two states differ at most in stack entries at index SP or above, which have no meaning (10_state.md R18). -/
def EqualButStale (s t : State) : Prop :=
  t = { s with stack := t.stack } ∧ ∀ k : Fin 16, k.val < s.sp.val → t.stack[k.val] = s.stack[k.val]

/-- The errors the next `n` transitions report, in order; the run of a machine that is refused ends there. -/
def errorsWithin : Nat → State → List Err
  | 0, _ => []
  | n + 1, s =>
    match step s with
    | .next t => if t.err = .none then errorsWithin n t else t.err :: errorsWithin n t
    | .fault _ => []
    | .refused _ => []

/-- A list of instructions run one after the other by `exec`, without fetches between them. -/
def execAll : List Instr → State → Host.Outcome State Fault Refusal
  | [], s => .next s
  | i :: is, s =>
    match exec i s with
    | .next t => execAll is t
    | .fault r => .fault r
    | .refused r => .refused r

/-- A safe run of `n` transitions: no error is reported (60_exceptions.md R114). -/
def NoErrorWithin (n : Nat) (s : State) : Prop := errorsWithin n s = []

end Sys2Proof.Machine
end

