-- ==== Sys2Proof/Certificates/Slice0/Obligations.lean ====
section
/-!
DEFINITION. The statements. In a statement about `exec i s`, `s` is the state after STEP's fetch and baseline advance, so
`s.pc` is the instruction's address + 2 (40_step.md R60, R63). A docstring names the spec's own decision (D<n> of
92_eei_decisions.md), derivation or general-knowledge passage, or the model's log entry, wherever a statement rests on one.
-/
open Sys2Proof Sys2Proof.Machine

/-! ## Encoding (30_encoding.md) -/

/-- R49 to R53: the word of every instruction, with every operand at every value, decodes to that instruction, and so do its
two bytes, which leave the rest of the bytes over. -/
def Obligations.DecodeOfEncode : Prop :=
  ∀ (i : Instr) (rest : List Byte), decodeWord (encode i) = .ok i ∧ decode (encodeBytes i ++ rest) = .ok (i, rest)

/-- R54: a word that decodes is the word of the instruction it decodes to, so no bit of it is ignored. -/
def Obligations.EncodeOfDecode : Prop :=
  ∀ (w : Word) (i : Instr), decodeWord w = .ok i → encode i = w

/-- R52, R54: a word a row of spec/opcode_table.json admits decodes to an instruction of that row, and no two rows admit the
same word. -/
def Obligations.TableRowsDecodeAndDoNotOverlap : Prop :=
  (∀ r ∈ opcodeTable, ∀ w, r.admits w = true → ∃ i, decodeWord w = .ok i ∧ i.mnemonic = r.mnemonic) ∧
  (∀ w, ∀ r ∈ opcodeTable, ∀ r' ∈ opcodeTable, r.admits w = true → r'.admits w = true → r = r')

/-- R54: the UNKNOWN words are exactly those of its six sets. The strict decode is the spec's decision D18. -/
def Obligations.UnknownWordsAreTheSixSets : Prop :=
  ∀ w : Word,
    let f := w.toNat / 4096
    let n := w.toNat % 16
    let kk := w.toNat % 256
    let unknown : Prop :=
      (f = 0x0 ∧ w ≠ 0x00E0 ∧ w ≠ 0x00EE) ∨ (f = 0x5 ∧ n ≠ 0) ∨
      (f = 0x8 ∧ n ∈ [0x8, 0x9, 0xA, 0xB, 0xC, 0xD, 0xF]) ∨ (f = 0x9 ∧ n ≠ 0) ∨
      (f = 0xE ∧ kk ∉ [0x9E, 0xA1]) ∨
      (f = 0xF ∧ kk ∉ [0x07, 0x0A, 0x15, 0x18, 0x1E, 0x29, 0x33, 0x55, 0x65])
    (unknown → decodeWord w = .error (.unknown w)) ∧ (¬ unknown → ∃ i, decodeWord w = .ok i)

/-- R52, R53: words written out from the spec decode to the instructions they stand for, one or more a family. That 0x8127 is the
reverse subtraction rests on the sub-operation value 7, the spec's general knowledge (G4, log entry 19), and that 0x8128 is
UNKNOWN on the spec's decision D18. -/
def Obligations.SampleWordsDecode : Prop :=
  decodeWord 0b0000000011100000 = .ok .cls ∧
  decodeWord 0b0000000011101110 = .ok .ret ∧
  decodeWord 0b0010001100000001 = .ok (.call 0x301) ∧
  decodeWord 0b0111000111111110 = .ok (.addImm 1 0xFE) ∧
  decodeWord 0b1000000100100111 = .ok (.subn 1 2) ∧
  decodeWord 0b1101000100100101 = .ok (.drw 1 2 5) ∧
  decodeWord 0b1110001010100001 = .ok (.sknp 2) ∧
  decodeWord 0b1111001100001010 = .ok (.ldVxK 3) ∧
  decodeWord 0b1111001001010101 = .ok (.ldIVx 2) ∧
  decodeWord 0b1000000100101000 = .error (.unknown 0x8128)

/-! ## The STEP cycle (40_step.md) -/

/-- R60, R66: a STEP in MODE Ready fetches the word at PC, high byte first, latches it in OPC, advances PC by 2, and then runs
the instruction the word decodes to; of an UNKNOWN word it only reports UnknownOpcode with that word. The byte order is the
spec's general knowledge (G1, decision D2), and that an UNKNOWN word is latched too is its decision D34. That the next state
holds a `reply`, which is nothing, and a list of coming commands, whose first one is taken off, is the model's own (log
entries 3 and 1). -/
def Obligations.ReadyStepRunsDecodedInstruction : Prop :=
  ∀ s : State, s.resetDone = true → s.nextCommand = .step → s.mode = .ready →
    let hi := s.memRead s.pc.toNat
    let lo := s.memRead (s.pc.toNat + 1)
    let w : Word := (hi.setWidth 16 <<< 8) ||| lo.setWidth 16
    let t : State := { s with
      opc := w, pc := s.pc + 2, changed := false, err := .none, reply := .nothing, pending := s.pending.tail }
    (∀ i, decodeWord w = .ok i → step s = exec i t) ∧
    (∀ e, decodeWord w = .error e → step s = .next { t with err := .unknownOpcode w })

/-- The model's own (log entry 5): a word placed by `withFetchWord` is the word the next step fetches and runs, and placing it
changes memory and what the fetch needs, no more. -/
def Obligations.PlacedWordIsFetchedAndRun : Prop :=
  ∀ (s : State) (w : Word) (i : Instr), decodeWord w = .ok i →
    let t := s.withFetchWord 16 w.toNat
    t.fetchWord = w ∧ step t = exec i t.fetched ∧
    BytesUnchangedBut [s.pc.toNat, s.pc.toNat + 1] s t ∧ UnchangedBut [.mem, .mode, .pending, .resetDone] s t

/-- R61: a STEP in MODE WaitKey does not fetch; with a key pressed it stores the smallest one in V[WAITX], moves past the Fx0A
and is Ready; with none it changes nothing. The smallest key and the poll are the spec's decisions D9 and D35.
The clauses on `pending` and `reply` are the model's own (log entries 1 and 3). -/
def Obligations.WaitingStepPollsKeypad : Prop :=
  ∀ s : State, s.resetDone = true → s.nextCommand = .step → s.mode = .waitKey →
    (∀ k, SmallestKey s k → ∃ t, step s = .next t ∧ t.reg s.waitx = BitVec.ofNat 8 k.val ∧
      RegsUnchangedBut (· = s.waitx) s t ∧ t.pc = s.pc + 2 ∧ t.mode = .ready ∧
      t.changed = false ∧ t.err = .none ∧ t.reply = .nothing ∧ t.pending = s.pending.tail ∧
      UnchangedBut ([.v, .pc, .mode, .pending] ++ outputs) s t) ∧
    (NoKey s → ∃ t, step s = .next t ∧
      t.changed = false ∧ t.err = .none ∧ t.reply = .nothing ∧ t.pending = s.pending.tail ∧
      UnchangedBut (.pending :: outputs) s t)

/-- R62, R74: `changed` is 1 after a STEP exactly when it executed 00E0 or Dxyn, and then REDRAW is 1. That the flag is set
unconditionally is the spec's decision D15. -/
def Obligations.ChangedMarksDisplayInstructions : Prop :=
  ∀ s : State, s.resetDone = true → s.nextCommand = .step → ∃ t, step s = .next t ∧
    (t.changed = true ↔ s.mode = .ready ∧
      (decodeWord s.fetchWord = .ok .cls ∨ ∃ x y n, decodeWord s.fetchWord = .ok (.drw x y n))) ∧
    (t.changed = true → t.redraw = true) ∧ (t.changed = false → t.redraw = s.redraw)

/-- R114, R59: once a RESET has completed, every command completes and the machine goes on, whatever error it reports; and
every instruction completes in every state. That the machine goes on after a stack error is the spec's decision D16. -/
def Obligations.EveryCommandCompletes : Prop :=
  (∀ s : State, s.resetDone = true → ∃ t, step s = .next t ∧ t.resetDone = true) ∧
  (∀ (i : Instr) (s : State), ∃ t, exec i s = .next t)

/-- R134: before the first RESET every command but RESET is refused, and RESET is performed. The spec's decision D21. -/
def Obligations.OnlyResetBeforeReset : Prop :=
  ∀ s : State, s.resetDone = false →
    (s.nextCommand ≠ .reset → step s = .refused .beforeReset) ∧
    (s.nextCommand = .reset → ∃ t, step s = .next t ∧ t.resetDone = true)

/-- R112, R115: a command reports at most one error, and each error has the cause its row gives. The causes UNKNOWN, overflow
and underflow are as the spec's decisions D18 and D16 fix them. -/
def Obligations.EachErrorHasItsCause : Prop :=
  ∀ s t : State, step s = .next t →
    (∀ w, t.err = .unknownOpcode w →
      s.nextCommand = .step ∧ s.mode = .ready ∧ w = s.fetchWord ∧ decodeWord w = .error (.unknown w)) ∧
    (∀ w, t.err = .stackOverflow w →
      s.nextCommand = .step ∧ s.mode = .ready ∧ w = s.fetchWord ∧ s.sp = 16 ∧ ∃ nnn, decodeWord w = .ok (.call nnn)) ∧
    (∀ w, t.err = .stackUnderflow w →
      s.nextCommand = .step ∧ s.mode = .ready ∧ w = s.fetchWord ∧ s.sp = 0 ∧ decodeWord w = .ok .ret) ∧
    (∀ len, t.err = .romTooLarge len →
      ∃ bytes, s.nextCommand = .load bytes ∧ len = bytes.length ∧ 3584 < len)

/-- R67: the MODE after every command, and what a taken key, a wait begun and a poll do. The smallest key and the
level-sensitive wait are the spec's decision D9. -/
def Obligations.ModeTransitionTable : Prop :=
  ∀ s : State, s.resetDone = true → ∃ t, step s = .next t ∧
    (s.nextCommand = .step → s.mode = .ready → (∀ x, decodeWord s.fetchWord ≠ .ok (.ldVxK x)) → t.mode = .ready) ∧
    (∀ x k, s.nextCommand = .step → s.mode = .ready → decodeWord s.fetchWord = .ok (.ldVxK x) → SmallestKey s k →
      t.mode = .ready ∧ t.reg x = BitVec.ofNat 8 k.val ∧ t.pc = s.pc + 2) ∧
    (∀ x, s.nextCommand = .step → s.mode = .ready → decodeWord s.fetchWord = .ok (.ldVxK x) → NoKey s →
      t.mode = .waitKey ∧ t.pc = s.pc ∧ t.waitx = x) ∧
    (∀ k, s.nextCommand = .step → s.mode = .waitKey → SmallestKey s k →
      t.mode = .ready ∧ t.reg s.waitx = BitVec.ofNat 8 k.val ∧ t.pc = s.pc + 2) ∧
    (s.nextCommand = .step → s.mode = .waitKey → NoKey s →
      t.mode = .waitKey ∧ UnchangedBut (.pending :: outputs) s t) ∧
    (s.nextCommand = .reset → t.mode = .ready) ∧
    (s.nextCommand ≠ .step → s.nextCommand ≠ .reset → t.mode = s.mode)

/-! ## Whole-machine rules -/

/-- R31: every instruction writes only the parts of its row of the access table, only its own destination registers, and only
the bytes it stores to. -/
def Obligations.InstructionsWriteOnlyTheirRow : Prop :=
  ∀ (i : Instr) (s t : State), exec i s = .next t →
    UnchangedBut (written i) s t ∧ RegsUnchangedBut (destReg i) s t ∧ BytesUnchangedBut (storeAddrs i s) s t

/-- R15: VF ends as the flag after the six instructions that write it as a flag; every other instruction leaves VF unchanged
unless it names VF as its destination register; VF is 0 at reset. That the flag remains when x = 0xF is the spec's decision
D10, and that 8xy1, 8xy2 and 8xy3 write no flag its decision D11. -/
def Obligations.FlagRegisterRule : Prop :=
  (∀ x y s, ∃ t, exec (.addReg x y) s = .next t ∧
    t.reg vf = if (s.reg x).toNat + (s.reg y).toNat > 255 then 1 else 0) ∧
  (∀ x y s, ∃ t, exec (.sub x y) s = .next t ∧ t.reg vf = if (s.reg x).toNat ≥ (s.reg y).toNat then 1 else 0) ∧
  (∀ x y s, ∃ t, exec (.shr x y) s = .next t ∧ (t.reg vf).toNat = (s.reg x).toNat % 2) ∧
  (∀ x y s, ∃ t, exec (.subn x y) s = .next t ∧ t.reg vf = if (s.reg y).toNat ≥ (s.reg x).toNat then 1 else 0) ∧
  (∀ x y s, ∃ t, exec (.shl x y) s = .next t ∧ (t.reg vf).toNat = (s.reg x).toNat / 128) ∧
  (∀ x y n s, ∃ t, exec (.drw x y n) s = .next t ∧ (t.reg vf = 0 ∨ t.reg vf = 1) ∧
    (t.reg vf = 1 ↔ ∃ c r, s.fb.pixel c r = true ∧ t.fb.pixel c r = false)) ∧
  (∀ i s t, exec i s = .next t → writesFlag i = false → namesVf i = false → t.reg vf = s.reg vf) ∧
  State.reset.reg vf = 0

/-- R114: the block keeps no error state, so the outputs of a command have no effect on the next one. That the outputs stand
in State is the model's own (log entry 3). -/
def Obligations.OutputsNeverAffectTheNextCommand : Prop :=
  ∀ (s : State) (ch : Bool) (e : Err) (rp : Reply), step { s with changed := ch, err := e, reply := rp } = step s

/-- R18: an entry at index SP or above has no meaning for execution: two states that differ only in such entries stay so under
every command. Keeping the entries is the spec's decision D17. -/
def Obligations.StaleStackEntriesHaveNoEffect : Prop :=
  ∀ s t : State, EqualButStale s t →
    (∀ s', step s = .next s' → ∃ t', step t = .next t' ∧ EqualButStale s' t') ∧
    (∀ r, step s = .refused r → step t = .refused r)

/-- The invariant holds after every command from every state that meets it: memory stays in its canonical form, a waiting
machine has the Fx0A of WAITX in OPC (R25, R27), a reported change comes with REDRAW (R74), and a reported error is borne out
by the state (R112). The canonical form of memory is the model's own (log entry 5), and so is that `changed` and the error
stand in State (log entry 3). -/
def Obligations.StepKeepsInvariant : Prop :=
  ∀ s t : State, Inv s → step s = .next t → Inv t

/-- The invariant holds right after RESET (R129). The canonical form of memory is the model's own (log entry 5), and so are the
values of the outputs that State holds right after RESET (log entry 3). -/
def Obligations.ResetMeetsInvariant : Prop := Inv State.reset

/-- R79: "`2nnn` followed eventually by `00EE` restores the exact program counter value saved at call time, for arbitrarily
nested calls up to 16 deep". -/
def Obligations.NestedCallsReturn : Prop :=
  ∀ (s : State) (ns : List Addr), s.sp.val + ns.length ≤ 16 → ∃ t u,
    execAll (ns.map .call) s = .next t ∧ t.sp.val = s.sp.val + ns.length ∧
    execAll (List.replicate ns.length .ret) t = .next u ∧ u.pc = s.pc ∧ u.sp = s.sp ∧
    (∀ k : Fin 16, k.val < s.sp.val → u.stack[k.val] = s.stack[k.val]) ∧ UnchangedBut [.stack] s u

/-- R71: a Dxyn, then the same Dxyn with the same registers: every pixel is as it was, and the second one collides exactly when
the first one lit a pixel ("XOR toggling"). Clipping and bit order are the spec's decisions D13 and D14. -/
def Obligations.DrawingTwiceRestoresFramebuffer : Prop :=
  ∀ x y n s, ∃ t u, exec (.drw x y n) s = .next t ∧ exec (.drw x y n) { t with v := s.v } = .next u ∧
    (∀ c r, u.fb.pixel c r = s.fb.pixel c r) ∧
    (u.reg vf = 1 ↔ ∃ c r, s.fb.pixel c r = false ∧ t.fb.pixel c r = true)

/-- R103, R104: a block store, then a block load of the same registers at the same I, brings V0..Vx back, whatever the registers
held in between and wherever in memory the block lies. That I does not move is the spec's decision D12. -/
def Obligations.BlockStoreThenLoadRestoresRegisters : Prop :=
  ∀ x s (v : Vector Byte 16), ∃ t u, exec (.ldIVx x) s = .next t ∧ exec (.ldVxI x) { t with v := v } = .next u ∧
    (∀ k ≤ x, u.reg k = s.reg k) ∧ (∀ k > x, u.reg k = v[k.val]) ∧ u.i = s.i

/-- R32, R33: a read after a write gives the written byte at every address that names the written cell, and any other address
reads as before. That addresses are taken mod 4096 is the spec's decision D3. -/
def Obligations.MemoryReadAfterWrite : Prop :=
  ∀ (s : State) (a b : Nat) (v : Byte),
    (s.memWrite a v).memRead b = (if b % 4096 = a % 4096 then v else s.memRead b) ∧ UnchangedBut [.mem] s (s.memWrite a v)

/-- The model's own (log entry 5): memories in canonical form that read alike at every address are equal data. -/
def Obligations.CanonicalMemoriesThatReadAlikeAreEqual : Prop :=
  ∀ s t : State, s.mem.wf → t.mem.wf → (∀ a < 4096, s.memRead a = t.memRead a) → s.mem = t.mem

/-- R68: in a parked state a STEP changes nothing but OPC, which latches the jump, and the state stays parked. The spec marks
this as derived. -/
def Obligations.ParkedStaysParked : Prop :=
  ∀ s : State, s.resetDone = true → s.nextCommand = .step → Parked s → ∃ t, step s = .next t ∧
    UnchangedBut ([.opc, .pending] ++ outputs) s t ∧ t.opc = s.fetchWord ∧ t.err = .none ∧ t.changed = false ∧ Parked t

/-- R130: with no program loaded, every STEP reports UnknownOpcode(0x0000) while PC walks upward through zero memory, up to the
end of memory. The spec marks this as derived; that the host issues STEP is the model's own (log entry 1). -/
def Obligations.EmptyMachineReportsUnknownOpcode : Prop :=
  ∀ k ≤ 1792, errorsWithin k State.reset = List.replicate k (.unknownOpcode 0) ∧
    ∃ t : State, Sys2Proof.core.run k State.reset = .next t ∧ t.pc = BitVec.ofNat 16 (0x200 + 2 * k)

/-! ## The other commands of the host (60_exceptions.md, 70_reset_and_hazards.md) -/

/-- R129: RESET gives every element its reset value, from any state, before a first RESET too. FONT is the spec's decision D6,
and the values of KEY, REDRAW, OPC, MODE and WAITX are its decision D25; the draw counter and the coming commands are the
model's own and stay (log entries 2 and 1). The last clause also fixes `changed` as 0 and `reply` as nothing after RESET, which
returns neither: that is the model's own choice (log entry 3). -/
def Obligations.ResetSetsEveryElement : Prop :=
  ∀ s : State, s.nextCommand = .reset → ∃ t, step s = .next t ∧
    (∀ k, t.reg k = 0) ∧ t.pc = 0x200 ∧ t.i = 0 ∧ (∀ k : Fin 16, t.stack[k.val] = 0) ∧ t.sp = 0 ∧ t.dt = 0 ∧ t.st = 0 ∧
    (∀ a < 80, some (t.memRead a) = FONT[a]?) ∧ (∀ a < 4096, 80 ≤ a → t.memRead a = 0) ∧
    (∀ c r, t.fb.pixel c r = false) ∧ t.redraw = false ∧ (∀ k, t.keyDown k = false) ∧ t.opc = 0 ∧ t.mode = .ready ∧
    t.waitx = 0 ∧ t.err = .none ∧ t = { State.reset with draws := s.draws, pending := s.pending.tail }

/-- R131: a LOAD of at most 3584 bytes writes them from 0x200 upward and changes nothing else. That it may come at any time is
the spec's decision D26. The clauses on `pending`, `changed` and `reply` are the model's own (log entries 1 and 3). -/
def Obligations.LoadWritesImage : Prop :=
  ∀ (s : State) (bytes : List Byte), s.resetDone = true → s.nextCommand = .load bytes → bytes.length ≤ 3584 →
    ∃ t, step s = .next t ∧ (∀ j, (h : j < bytes.length) → t.memRead (0x200 + j) = bytes[j]) ∧
      BytesUnchangedBut ((List.range bytes.length).map (0x200 + ·)) s t ∧
      t.err = .none ∧ t.changed = false ∧ t.reply = .nothing ∧ t.pending = s.pending.tail ∧
      UnchangedBut ([.mem, .pending] ++ outputs) s t

/-- R132: a LOAD of more than 3584 bytes reports RomTooLarge with the length and writes nothing. -/
def Obligations.OversizeLoadWritesNothing : Prop :=
  ∀ (s : State) (bytes : List Byte), s.resetDone = true → s.nextCommand = .load bytes → 3584 < bytes.length →
    ∃ t, step s = .next t ∧ t.err = .romTooLarge bytes.length ∧ UnchangedBut (.pending :: outputs) s t

/-- R120: TICK counts each timer down by 1, never below 0, in both MODEs, and changes no other state. The clause
on `pending` is the model's own (log entry 1). -/
def Obligations.TickCountsTimersDown : Prop :=
  ∀ s : State, s.resetDone = true → s.nextCommand = .tick → ∃ t, step s = .next t ∧
    t.dt.toNat = s.dt.toNat - 1 ∧ t.st.toNat = s.st.toNat - 1 ∧ t.err = .none ∧ t.pending = s.pending.tail ∧
    UnchangedBut ([.dt, .st, .pending] ++ outputs) s t

/-- R123: SET_KEY(k, p) writes one key flag and changes nothing else. The 4-bit index is the spec's decision D33. The clause
on `pending` is the model's own (log entry 1). -/
def Obligations.SetKeyWritesOneFlag : Prop :=
  ∀ (s : State) (k : RegIdx) (p : Bool), s.resetDone = true → s.nextCommand = .setKey k p → ∃ t, step s = .next t ∧
    t.keyDown k = p ∧ (∀ j, j ≠ k → t.keyDown j = s.keyDown j) ∧ t.err = .none ∧ t.pending = s.pending.tail ∧
    UnchangedBut ([.key, .pending] ++ outputs) s t

/-- R121, R124: READ_TONE returns whether ST is non-zero, READ_FB returns the framebuffer, and both change nothing. The
clauses on `pending` are the model's own (log entry 1), and so is that the returned value stands in State (log entry 3). -/
def Obligations.ReadersOfToneAndFramebuffer : Prop :=
  ∀ s : State, s.resetDone = true →
    (s.nextCommand = .readTone → ∃ t, step s = .next t ∧ t.reply = .tone (decide (s.st ≠ 0)) ∧
      t.pending = s.pending.tail ∧ UnchangedBut (.pending :: outputs) s t) ∧
    (s.nextCommand = .readFb → ∃ t, step s = .next t ∧ t.reply = .frame s.fb ∧
      t.pending = s.pending.tail ∧ UnchangedBut (.pending :: outputs) s t)

/-- R125: READ_REDRAW returns REDRAW and changes nothing; CLEAR_REDRAW makes REDRAW 0 and changes nothing else. The accessor is
the spec's decision D15. The clauses on `pending` are the model's own (log entry 1), and so is that the returned value stands
in State (log entry 3). -/
def Obligations.RedrawFlagAccessors : Prop :=
  ∀ s : State, s.resetDone = true →
    (s.nextCommand = .readRedraw → ∃ t, step s = .next t ∧ t.reply = .redraw s.redraw ∧
      t.pending = s.pending.tail ∧ UnchangedBut (.pending :: outputs) s t) ∧
    (s.nextCommand = .clearRedraw → ∃ t, step s = .next t ∧ t.redraw = false ∧
      t.pending = s.pending.tail ∧ UnchangedBut ([.redraw, .pending] ++ outputs) s t)

/-! ## Display instructions (41_display.md) -/

/-- R70: 00E0. REDRAW and `changed` set whether or not a pixel was lit are the spec's decision D15. -/
def Obligations.ClsClearsFramebuffer : Prop :=
  decodeWord 0x00E0#16 = .ok .cls ∧
  ∀ s : State, ∃ t, exec .cls s = .next t ∧ (∀ c r, t.fb.pixel c r = false) ∧ t.redraw = true ∧ t.changed = true ∧
    UnchangedBut [.fb, .redraw, .changed] s t

/-- R71 to R74: Dxyn's pixel by pixel loop is the XOR of the framebuffer with the visible part of the sprite, and VF tells
whether a lit pixel was turned off; in every state and for every x, y and n, those with x or y = 0xF and n = 0 included.
Clipping, n = 0 and the coordinates read before VF are the spec's decision D13, the bit order its decision D14, REDRAW its
decision D15. -/
def Obligations.DrwIsXorOfVisibleSprite : Prop :=
  ∀ x y n, decodeWord (0xD#4 ++ nib x ++ nib y ++ nib n) = .ok (.drw x y n) ∧
  ∀ s : State, ∃ t, exec (.drw x y n) s = .next t ∧
    (∀ c r, t.fb.pixel c r = (s.fb.pixel c r ^^ spriteBit s x y n c r)) ∧
    ((∃ c r, spriteBit s x y n c r = true ∧ s.fb.pixel c r = true) → t.reg vf = 1) ∧
    ((¬ ∃ c r, spriteBit s x y n c r = true ∧ s.fb.pixel c r = true) → t.reg vf = 0) ∧
    RegsUnchangedBut (· = vf) s t ∧ t.redraw = true ∧ t.changed = true ∧ UnchangedBut [.v, .fb, .redraw, .changed] s t

/-! ## Control flow (42_control_flow.md) -/

/-- R77: 00EE with an entry on the stack, and with none. What an underflow does is the spec's decision D16, the count in SP its
decision D17. -/
def Obligations.RetPopsProgramCounter : Prop :=
  decodeWord 0x00EE#16 = .ok .ret ∧
  (∀ (s : State) (k : Fin 16), s.sp.val = k.val + 1 → ∃ t, exec .ret s = .next t ∧
    t.pc = s.stack[k.val] ∧ t.sp.val = k.val ∧ UnchangedBut [.pc, .sp] s t) ∧
  (∀ s : State, s.sp = 0 → ∃ t, exec .ret s = .next t ∧
    t.err = .stackUnderflow s.opc ∧ UnchangedBut [.err] s t)

/-- R78: 1nnn. -/
def Obligations.JpSetsProgramCounter : Prop :=
  ∀ nnn : Addr, decodeWord (0x1#4 ++ nnn) = .ok (.jp nnn) ∧
  ∀ s : State, ∃ t, exec (.jp nnn) s = .next t ∧ t.pc.toNat = nnn.toNat ∧ UnchangedBut [.pc] s t

/-- R84: Bnnn. The 16-bit sum is the spec's decision D28. -/
def Obligations.JpV0AddsV0 : Prop :=
  ∀ nnn : Addr, decodeWord (0xB#4 ++ nnn) = .ok (.jpV0 nnn) ∧
  ∀ s : State, ∃ t, exec (.jpV0 nnn) s = .next t ∧ t.pc.toNat = nnn.toNat + (s.reg 0).toNat ∧ UnchangedBut [.pc] s t

/-- R79: 2nnn below 16 entries, and on a full stack. What an overflow does is the spec's decision D16, the count in SP its
decision D17. -/
def Obligations.CallPushesReturnAddress : Prop :=
  ∀ nnn : Addr, decodeWord (0x2#4 ++ nnn) = .ok (.call nnn) ∧
  (∀ (s : State) (k : Fin 16), s.sp.val = k.val → ∃ t, exec (.call nnn) s = .next t ∧
    t.pc.toNat = nnn.toNat ∧ t.sp.val = k.val + 1 ∧ t.stack[k.val] = s.pc ∧
    (∀ j : Fin 16, j ≠ k → t.stack[j.val] = s.stack[j.val]) ∧ UnchangedBut [.pc, .sp, .stack] s t) ∧
  (∀ s : State, s.sp = 16 → ∃ t, exec (.call nnn) s = .next t ∧
    t.err = .stackOverflow s.opc ∧ UnchangedBut [.err] s t)

/-- R80, R81: 3xkk and 4xkk. -/
def Obligations.SkipOnImmediate : Prop :=
  ∀ x kk, decodeWord (0x3#4 ++ nib x ++ kk) = .ok (.seImm x kk) ∧ decodeWord (0x4#4 ++ nib x ++ kk) = .ok (.sneImm x kk) ∧
  ∀ s : State,
    (∃ t, exec (.seImm x kk) s = .next t ∧ t.pc = (if s.reg x = kk then s.pc + 2 else s.pc) ∧ UnchangedBut [.pc] s t) ∧
    (∃ t, exec (.sneImm x kk) s = .next t ∧ t.pc = (if s.reg x ≠ kk then s.pc + 2 else s.pc) ∧ UnchangedBut [.pc] s t)

/-- R82, R83: 5xy0 and 9xy0; with another low nibble the word is UNKNOWN (the spec's decision D18). -/
def Obligations.SkipOnRegister : Prop :=
  ∀ x y, decodeWord (0x5#4 ++ nib x ++ nib y ++ 0x0#4) = .ok (.seReg x y) ∧
  decodeWord (0x9#4 ++ nib x ++ nib y ++ 0x0#4) = .ok (.sneReg x y) ∧
  (∀ n : BitVec 4, n ≠ 0 →
    decodeWord (0x5#4 ++ nib x ++ nib y ++ n) = .error (.unknown (0x5#4 ++ nib x ++ nib y ++ n)) ∧
    decodeWord (0x9#4 ++ nib x ++ nib y ++ n) = .error (.unknown (0x9#4 ++ nib x ++ nib y ++ n))) ∧
  ∀ s : State,
    (∃ t, exec (.seReg x y) s = .next t ∧
      t.pc = (if s.reg x = s.reg y then s.pc + 2 else s.pc) ∧ UnchangedBut [.pc] s t) ∧
    (∃ t, exec (.sneReg x y) s = .next t ∧
      t.pc = (if s.reg x ≠ s.reg y then s.pc + 2 else s.pc) ∧ UnchangedBut [.pc] s t)

/-- R106, R107: Ex9E and ExA1; the key tested is V[x] mod 16 (the spec's decision D8). -/
def Obligations.SkipOnKey : Prop :=
  ∀ x, decodeWord (0xE#4 ++ nib x ++ 0x9E#8) = .ok (.skp x) ∧ decodeWord (0xE#4 ++ nib x ++ 0xA1#8) = .ok (.sknp x) ∧
  ∀ (s : State) (k : RegIdx), k.val = (s.reg x).toNat % 16 →
    (∃ t, exec (.skp x) s = .next t ∧
      t.pc = (if s.keyDown k = true then s.pc + 2 else s.pc) ∧ UnchangedBut [.pc] s t) ∧
    (∃ t, exec (.sknp x) s = .next t ∧
      t.pc = (if s.keyDown k = false then s.pc + 2 else s.pc) ∧ UnchangedBut [.pc] s t)

/-! ## Loads, arithmetic, logic, shifts, random (43_alu.md) -/

/-- R87, R88: 6xkk and 7xkk. -/
def Obligations.ImmediateLoadAndAdd : Prop :=
  ∀ x kk, decodeWord (0x6#4 ++ nib x ++ kk) = .ok (.ldImm x kk) ∧ decodeWord (0x7#4 ++ nib x ++ kk) = .ok (.addImm x kk) ∧
  ∀ s : State,
    (∃ t, exec (.ldImm x kk) s = .next t ∧ t.reg x = kk ∧ RegsUnchangedBut (· = x) s t ∧ UnchangedBut [.v] s t) ∧
    (∃ t, exec (.addImm x kk) s = .next t ∧ (t.reg x).toNat = ((s.reg x).toNat + kk.toNat) % 256 ∧
      RegsUnchangedBut (· = x) s t ∧ UnchangedBut [.v] s t)

/-- R89: 8xy0. -/
def Obligations.RegisterCopy : Prop :=
  ∀ x y, decodeWord (0x8#4 ++ nib x ++ nib y ++ 0x0#4) = .ok (.ldReg x y) ∧
  ∀ s : State, ∃ t, exec (.ldReg x y) s = .next t ∧ t.reg x = s.reg y ∧
    RegsUnchangedBut (· = x) s t ∧ UnchangedBut [.v] s t

/-- R90, R91, R92: 8xy1, 8xy2 and 8xy3, bit by bit. That they leave VF alone is the spec's decision D11. -/
def Obligations.BitwiseOperations : Prop :=
  ∀ x y, decodeWord (0x8#4 ++ nib x ++ nib y ++ 0x1#4) = .ok (.orReg x y) ∧
  decodeWord (0x8#4 ++ nib x ++ nib y ++ 0x2#4) = .ok (.andReg x y) ∧
  decodeWord (0x8#4 ++ nib x ++ nib y ++ 0x3#4) = .ok (.xorReg x y) ∧
  ∀ s : State,
    (∃ t, exec (.orReg x y) s = .next t ∧
      (∀ b < 8, (t.reg x).getLsbD b = ((s.reg x).getLsbD b || (s.reg y).getLsbD b)) ∧
      RegsUnchangedBut (· = x) s t ∧ UnchangedBut [.v] s t) ∧
    (∃ t, exec (.andReg x y) s = .next t ∧
      (∀ b < 8, (t.reg x).getLsbD b = ((s.reg x).getLsbD b && (s.reg y).getLsbD b)) ∧
      RegsUnchangedBut (· = x) s t ∧ UnchangedBut [.v] s t) ∧
    (∃ t, exec (.xorReg x y) s = .next t ∧
      (∀ b < 8, (t.reg x).getLsbD b = ((s.reg x).getLsbD b ^^ (s.reg y).getLsbD b)) ∧
      RegsUnchangedBut (· = x) s t ∧ UnchangedBut [.v] s t)

/-- R93: 8xy4. With x = 0xF the carry remains and the sum is lost (the spec's decision D10). -/
def Obligations.AddWithCarry : Prop :=
  ∀ x y, decodeWord (0x8#4 ++ nib x ++ nib y ++ 0x4#4) = .ok (.addReg x y) ∧
  ∀ s : State, ∃ t, exec (.addReg x y) s = .next t ∧
    (x ≠ vf → (t.reg x).toNat = ((s.reg x).toNat + (s.reg y).toNat) % 256) ∧
    t.reg vf = (if (s.reg x).toNat + (s.reg y).toNat > 255 then 1 else 0) ∧
    RegsUnchangedBut (fun k => k = x ∨ k = vf) s t ∧ UnchangedBut [.v] s t

/-- R94: 8xy5. With x = 0xF the flag remains (the spec's decision D10). -/
def Obligations.SubtractWithNotBorrow : Prop :=
  ∀ x y, decodeWord (0x8#4 ++ nib x ++ nib y ++ 0x5#4) = .ok (.sub x y) ∧
  ∀ s : State, ∃ t, exec (.sub x y) s = .next t ∧
    (x ≠ vf → ((t.reg x).toNat : Int) = ((s.reg x).toNat - (s.reg y).toNat : Int) % 256) ∧
    t.reg vf = (if (s.reg x).toNat ≥ (s.reg y).toNat then 1 else 0) ∧
    RegsUnchangedBut (fun k => k = x ∨ k = vf) s t ∧ UnchangedBut [.v] s t

/-- R96: 8xy7. With x = 0xF the flag remains (the spec's decision D10). The sub-operation value 7 is the spec's
general knowledge (G4). -/
def Obligations.ReverseSubtractWithNotBorrow : Prop :=
  ∀ x y, decodeWord (0x8#4 ++ nib x ++ nib y ++ 0x7#4) = .ok (.subn x y) ∧
  ∀ s : State, ∃ t, exec (.subn x y) s = .next t ∧
    (x ≠ vf → ((t.reg x).toNat : Int) = ((s.reg y).toNat - (s.reg x).toNat : Int) % 256) ∧
    t.reg vf = (if (s.reg y).toNat ≥ (s.reg x).toNat then 1 else 0) ∧
    RegsUnchangedBut (fun k => k = x ∨ k = vf) s t ∧ UnchangedBut [.v] s t

/-- R95, R97: 8xy6 and 8xyE shift V[x] by exactly one place, whatever y is. With x = 0xF the bit shifted out remains (the
spec's decision D10). -/
def Obligations.ShiftsByOne : Prop :=
  ∀ x y, decodeWord (0x8#4 ++ nib x ++ nib y ++ 0x6#4) = .ok (.shr x y) ∧
  decodeWord (0x8#4 ++ nib x ++ nib y ++ 0xE#4) = .ok (.shl x y) ∧
  ∀ s : State,
    (∃ t, exec (.shr x y) s = .next t ∧ (x ≠ vf → (t.reg x).toNat = (s.reg x).toNat / 2) ∧
      (t.reg vf).toNat = (s.reg x).toNat % 2 ∧
      RegsUnchangedBut (fun k => k = x ∨ k = vf) s t ∧ UnchangedBut [.v] s t) ∧
    (∃ t, exec (.shl x y) s = .next t ∧ (x ≠ vf → (t.reg x).toNat = (s.reg x).toNat * 2 % 256) ∧
      (t.reg vf).toNat = (s.reg x).toNat / 128 ∧
      RegsUnchangedBut (fun k => k = x ∨ k = vf) s t ∧ UnchangedBut [.v] s t)

/-- R98: Cxkk masks one fresh draw by kk. The draw is a free value (the spec's decision D19, log entry 2), so nothing but
V[x] AND NOT kk = 0 follows about its value. -/
def Obligations.RandomByteIsMasked : Prop :=
  ∀ x kk, decodeWord (0xC#4 ++ nib x ++ kk) = .ok (.rnd x kk) ∧
  ∀ s : State, ∃ t, exec (.rnd x kk) s = .next t ∧ t.reg x = Config.rand s.draws &&& kk ∧ t.reg x &&& ~~~kk = 0 ∧
    t.draws = s.draws + 1 ∧ RegsUnchangedBut (· = x) s t ∧ UnchangedBut [.v, .draws] s t

/-! ## Index register and memory (44_index_memory.md) -/

/-- R99: Annn. -/
def Obligations.LoadIndexRegister : Prop :=
  ∀ nnn : Addr, decodeWord (0xA#4 ++ nnn) = .ok (.ldI nnn) ∧
  ∀ s : State, ∃ t, exec (.ldI nnn) s = .next t ∧ t.i.toNat = nnn.toNat ∧ UnchangedBut [.i] s t

/-- R100: Fx1E. The 16-bit wrap and VF left alone are the spec's decision D29. -/
def Obligations.AddToIndexRegister : Prop :=
  ∀ x, decodeWord (0xF#4 ++ nib x ++ 0x1E#8) = .ok (.addIVx x) ∧
  ∀ s : State, ∃ t, exec (.addIVx x) s = .next t ∧ t.i.toNat = (s.i.toNat + (s.reg x).toNat) % 65536 ∧
    UnchangedBut [.i] s t

/-- R101: Fx29. The low nibble and the layout are the spec's decisions D7 and D6. -/
def Obligations.PointIndexAtGlyph : Prop :=
  ∀ x, decodeWord (0xF#4 ++ nib x ++ 0x29#8) = .ok (.ldFVx x) ∧
  ∀ s : State, ∃ t, exec (.ldFVx x) s = .next t ∧ t.i.toNat = 5 * ((s.reg x).toNat % 16) ∧ UnchangedBut [.i] s t

/-- R102: Fx33, wherever in memory the three bytes lie. Addresses past 0xFFF wrap by the spec's decision D3. -/
def Obligations.StoreDecimalDigits : Prop :=
  ∀ x, decodeWord (0xF#4 ++ nib x ++ 0x33#8) = .ok (.ldBVx x) ∧
  ∀ s : State, ∃ t, exec (.ldBVx x) s = .next t ∧
    (t.memRead (s.indexAddr 0)).toNat = (s.reg x).toNat / 100 ∧
    (t.memRead (s.indexAddr 1)).toNat = (s.reg x).toNat / 10 % 10 ∧
    (t.memRead (s.indexAddr 2)).toNat = (s.reg x).toNat % 10 ∧
    BytesUnchangedBut [s.indexAddr 0, s.indexAddr 1, s.indexAddr 2] s t ∧ UnchangedBut [.mem] s t

/-- R103: Fx55. That I does not move is the spec's decision D12, that addresses wrap its decision D3. -/
def Obligations.BlockStore : Prop :=
  ∀ x, decodeWord (0xF#4 ++ nib x ++ 0x55#8) = .ok (.ldIVx x) ∧
  ∀ s : State, ∃ t, exec (.ldIVx x) s = .next t ∧ (∀ k ≤ x, t.memRead (s.indexAddr k.val) = s.reg k) ∧
    BytesUnchangedBut ((List.range (x.val + 1)).map s.indexAddr) s t ∧ UnchangedBut [.mem] s t

/-- R104: Fx65. That I does not move is the spec's decision D12, that addresses wrap its decision D3. -/
def Obligations.BlockLoad : Prop :=
  ∀ x, decodeWord (0xF#4 ++ nib x ++ 0x65#8) = .ok (.ldVxI x) ∧
  ∀ s : State, ∃ t, exec (.ldVxI x) s = .next t ∧ (∀ k ≤ x, t.reg k = s.memRead (s.indexAddr k.val)) ∧
    RegsUnchangedBut (· ≤ x) s t ∧ UnchangedBut [.v] s t

/-! ## Keys and timers (45_keys_timers.md) -/

/-- R108, R110, R111: Fx07, Fx15 and Fx18; after Fx18, TONE is 1 exactly when V[x] is non-zero (R121). -/
def Obligations.TimerRegisterTransfers : Prop :=
  ∀ x, decodeWord (0xF#4 ++ nib x ++ 0x07#8) = .ok (.ldVxDt x) ∧ decodeWord (0xF#4 ++ nib x ++ 0x15#8) = .ok (.ldDtVx x) ∧
  decodeWord (0xF#4 ++ nib x ++ 0x18#8) = .ok (.ldStVx x) ∧
  ∀ s : State,
    (∃ t, exec (.ldVxDt x) s = .next t ∧ t.reg x = s.dt ∧ RegsUnchangedBut (· = x) s t ∧ UnchangedBut [.v] s t) ∧
    (∃ t, exec (.ldDtVx x) s = .next t ∧ t.dt = s.reg x ∧ UnchangedBut [.dt] s t) ∧
    (∃ t, exec (.ldStVx x) s = .next t ∧ t.st = s.reg x ∧ (t.tone = true ↔ s.reg x ≠ 0) ∧ UnchangedBut [.st] s t)

/-- R109: Fx0A with a key pressed, and with none. The smallest key and the level-sensitive wait are the spec's decision D9. -/
def Obligations.WaitForKey : Prop :=
  ∀ x, decodeWord (0xF#4 ++ nib x ++ 0x0A#8) = .ok (.ldVxK x) ∧
  (∀ (s : State) (k : RegIdx), SmallestKey s k → ∃ t, exec (.ldVxK x) s = .next t ∧
    t.reg x = BitVec.ofNat 8 k.val ∧ RegsUnchangedBut (· = x) s t ∧ UnchangedBut [.v] s t) ∧
  (∀ s : State, NoKey s → ∃ t, exec (.ldVxK x) s = .next t ∧
    t.pc = s.pc - 2 ∧ t.waitx = x ∧ t.mode = .waitKey ∧ UnchangedBut [.pc, .waitx, .mode] s t)
end

