-- ==== Sys2Proof/Laws/Decode.lean ====
section
/-!
SUPPORT. The fields of a word built in a format are the fields put into it (30_encoding.md R49, R50), and a word is the
word built from its fields.
-/
namespace Sys2Proof

@[simp] theorem nib_toFin (n : BitVec 4) : nib n.toFin = n := rfl
@[simp] theorem toFin_nib (k : Fin 16) : (nib k).toFin = k := rfl

/-! ## Fields of the formats -/

section formats
variable (f : BitVec 4) (x y : RegIdx) (n : BitVec 4) (kk : Byte) (nnn : Addr)

@[simp] theorem fieldF_formatNNN : fieldF (formatNNN f nnn) = f := by
  apply BitVec.eq_of_getLsbD_eq; intro i hi
  simp only [fieldF, formatNNN, BitVec.getLsbD_extractLsb', BitVec.getLsbD_append]
  simp [hi, show ¬ 12 + i < 12 by omega]

@[simp] theorem fieldNNN_formatNNN : fieldNNN (formatNNN f nnn) = nnn := by
  apply BitVec.eq_of_getLsbD_eq; intro i hi
  simp only [fieldNNN, formatNNN, BitVec.getLsbD_extractLsb', BitVec.getLsbD_append]
  simp [hi]

@[simp] theorem fieldF_formatXKK : fieldF (formatXKK f x kk) = f := by
  apply BitVec.eq_of_getLsbD_eq; intro i hi
  simp only [fieldF, formatXKK, BitVec.getLsbD_extractLsb', BitVec.getLsbD_append]
  simp [hi, show ¬ 12 + i < 8 by omega, show ¬ 12 + i - 8 < 4 by omega, show 12 + i - 8 - 4 = i by omega]

@[simp] theorem fieldX_formatXKK : fieldX (formatXKK f x kk) = x := by
  have : (formatXKK f x kk).extractLsb' 8 4 = nib x := by
    apply BitVec.eq_of_getLsbD_eq; intro i hi
    simp only [formatXKK, BitVec.getLsbD_extractLsb', BitVec.getLsbD_append]
    simp [hi, show ¬ 8 + i < 8 by omega]
  rw [fieldX, this, toFin_nib]

@[simp] theorem fieldKK_formatXKK : fieldKK (formatXKK f x kk) = kk := by
  apply BitVec.eq_of_getLsbD_eq; intro i hi
  simp only [fieldKK, formatXKK, BitVec.getLsbD_extractLsb', BitVec.getLsbD_append]
  simp [hi]

@[simp] theorem fieldF_formatXYN : fieldF (formatXYN f x y n) = f := by
  apply BitVec.eq_of_getLsbD_eq; intro i hi
  simp only [fieldF, formatXYN, BitVec.getLsbD_extractLsb', BitVec.getLsbD_append]
  simp [hi, show ¬ 12 + i < 4 by omega, show ¬ 12 + i - 4 < 4 by omega, show ¬ 12 + i - 4 - 4 < 4 by omega,
    show 12 + i - 4 - 4 - 4 = i by omega]

@[simp] theorem fieldX_formatXYN : fieldX (formatXYN f x y n) = x := by
  have : (formatXYN f x y n).extractLsb' 8 4 = nib x := by
    apply BitVec.eq_of_getLsbD_eq; intro i hi
    simp only [formatXYN, BitVec.getLsbD_extractLsb', BitVec.getLsbD_append]
    simp [hi, show ¬ 8 + i < 4 by omega, show ¬ 8 + i - 4 < 4 by omega, show 8 + i - 4 - 4 = i by omega]
  rw [fieldX, this, toFin_nib]

@[simp] theorem fieldY_formatXYN : fieldY (formatXYN f x y n) = y := by
  have : (formatXYN f x y n).extractLsb' 4 4 = nib y := by
    apply BitVec.eq_of_getLsbD_eq; intro i hi
    simp only [formatXYN, BitVec.getLsbD_extractLsb', BitVec.getLsbD_append]
    simp [hi, show ¬ 4 + i < 4 by omega]
  rw [fieldY, this, toFin_nib]

@[simp] theorem fieldN_formatXYN : fieldN (formatXYN f x y n) = n := by
  apply BitVec.eq_of_getLsbD_eq; intro i hi
  simp only [fieldN, formatXYN, BitVec.getLsbD_extractLsb', BitVec.getLsbD_append]
  simp [hi]

end formats

/-! ## A word is built from its fields -/

theorem formatNNN_of_fields (w : Word) : formatNNN (fieldF w) (fieldNNN w) = w := by
  apply BitVec.eq_of_getLsbD_eq; intro i hi
  simp only [fieldF, fieldNNN, formatNNN, BitVec.getLsbD_extractLsb', BitVec.getLsbD_append]
  by_cases h : i < 12
  · simp [h]
  · simp [h, show i - 12 < 4 by omega, show 12 + (i - 12) = i by omega]

theorem formatXKK_of_fields (w : Word) : formatXKK (fieldF w) (fieldX w) (fieldKK w) = w := by
  apply BitVec.eq_of_getLsbD_eq; intro i hi
  simp only [fieldF, fieldX, fieldKK, formatXKK, nib_toFin, BitVec.getLsbD_extractLsb', BitVec.getLsbD_append]
  by_cases h : i < 8
  · simp [h]
  · by_cases h' : i - 8 < 4
    · simp [h, h', show 8 + (i - 8) = i by omega]
    · simp [h, h', show i - 8 - 4 < 4 by omega, show 12 + (i - 8 - 4) = i by omega]

theorem formatXYN_of_fields (w : Word) : formatXYN (fieldF w) (fieldX w) (fieldY w) (fieldN w) = w := by
  apply BitVec.eq_of_getLsbD_eq; intro i hi
  simp only [fieldF, fieldX, fieldY, fieldN, formatXYN, nib_toFin, BitVec.getLsbD_extractLsb', BitVec.getLsbD_append]
  by_cases h : i < 4
  · simp [h]
  · by_cases h' : i - 4 < 4
    · simp [h, h', show 4 + (i - 4) = i by omega]
    · by_cases h'' : i - 4 - 4 < 4
      · simp [h, h', h'', show 8 + (i - 4 - 4) = i by omega]
      · simp [h, h', h'', show i - 4 - 4 - 4 < 4 by omega, show 12 + (i - 4 - 4 - 4) = i by omega]

/-! ## A word under the masks of the opcode table -/

section masks
variable (f : BitVec 4) (x y : RegIdx) (n : BitVec 4) (kk : Byte) (nnn : Addr)

theorem formatNNN_and_F000 : formatNNN f nnn &&& 0xF000#16 = formatNNN f 0 := by
  apply BitVec.eq_of_getLsbD_eq; intro i hi
  simp only [formatNNN, BitVec.getLsbD_and, BitVec.getLsbD_append]
  interval_cases i <;> simp

theorem formatXKK_and_F000 : formatXKK f x kk &&& 0xF000#16 = formatXKK f 0 0 := by
  apply BitVec.eq_of_getLsbD_eq; intro i hi
  simp only [formatXKK, nib, BitVec.getLsbD_and, BitVec.getLsbD_append]
  interval_cases i <;> simp

theorem formatXKK_and_F0FF : formatXKK f x kk &&& 0xF0FF#16 = formatXKK f 0 kk := by
  apply BitVec.eq_of_getLsbD_eq; intro i hi
  simp only [formatXKK, nib, BitVec.getLsbD_and, BitVec.getLsbD_append]
  interval_cases i <;> simp

theorem formatXYN_and_F000 : formatXYN f x y n &&& 0xF000#16 = formatXYN f 0 0 0 := by
  apply BitVec.eq_of_getLsbD_eq; intro i hi
  simp only [formatXYN, nib, BitVec.getLsbD_and, BitVec.getLsbD_append]
  interval_cases i <;> simp

theorem formatXYN_and_F00F : formatXYN f x y n &&& 0xF00F#16 = formatXYN f 0 0 n := by
  apply BitVec.eq_of_getLsbD_eq; intro i hi
  simp only [formatXYN, nib, BitVec.getLsbD_and, BitVec.getLsbD_append]
  interval_cases i <;> simp

end masks

/-! ## Bytes -/

@[simp] theorem wordOfBytes_hi_lo (w : Word) : wordOfBytes (hiByte w) (loByte w) = w := by
  apply BitVec.eq_of_getLsbD_eq; intro i hi
  simp only [wordOfBytes, hiByte, loByte, BitVec.getLsbD_append, BitVec.getLsbD_extractLsb']
  by_cases h : i < 8
  · simp [h]
  · simp [h, show i - 8 < 8 by omega, show 8 + (i - 8) = i by omega]

/-- The word of two bytes as the spec writes it: (hi << 8) OR lo (20_memory.md R35). -/
theorem wordOfBytes_eq_or (hi lo : Byte) : wordOfBytes hi lo = (hi.setWidth 16 <<< 8) ||| lo.setWidth 16 := by
  apply BitVec.eq_of_getLsbD_eq; intro i hi'
  simp only [wordOfBytes, BitVec.getLsbD_append, BitVec.getLsbD_or, BitVec.getLsbD_shiftLeft, BitVec.getLsbD_setWidth]
  by_cases h : i < 8
  · simp [h, hi']
  · simp [h, hi', show i - 8 < 16 by omega, BitVec.getLsbD_of_ge lo i (by omega)]

end Sys2Proof
end

