-- ==== Sys2Proof/Laws/State.lean ====
section
/-!
SUPPORT. What each shared update of the state does to each field, so that no later proof unfolds a record update.
-/
namespace Sys2Proof.Machine

variable (s : State)

/-! ## setReg -/

@[simp] theorem setReg_v (k : RegIdx) (b : Byte) : (s.setReg k b).v = s.v.set k.val b := rfl
@[simp] theorem setReg_pc (k : RegIdx) (b : Byte) : (s.setReg k b).pc = s.pc := rfl
@[simp] theorem setReg_i (k : RegIdx) (b : Byte) : (s.setReg k b).i = s.i := rfl
@[simp] theorem setReg_stack (k : RegIdx) (b : Byte) : (s.setReg k b).stack = s.stack := rfl
@[simp] theorem setReg_sp (k : RegIdx) (b : Byte) : (s.setReg k b).sp = s.sp := rfl
@[simp] theorem setReg_dt (k : RegIdx) (b : Byte) : (s.setReg k b).dt = s.dt := rfl
@[simp] theorem setReg_st (k : RegIdx) (b : Byte) : (s.setReg k b).st = s.st := rfl
@[simp] theorem setReg_mem (k : RegIdx) (b : Byte) : (s.setReg k b).mem = s.mem := rfl
@[simp] theorem setReg_fb (k : RegIdx) (b : Byte) : (s.setReg k b).fb = s.fb := rfl
@[simp] theorem setReg_redraw (k : RegIdx) (b : Byte) : (s.setReg k b).redraw = s.redraw := rfl
@[simp] theorem setReg_key (k : RegIdx) (b : Byte) : (s.setReg k b).key = s.key := rfl
@[simp] theorem setReg_opc (k : RegIdx) (b : Byte) : (s.setReg k b).opc = s.opc := rfl
@[simp] theorem setReg_mode (k : RegIdx) (b : Byte) : (s.setReg k b).mode = s.mode := rfl
@[simp] theorem setReg_waitx (k : RegIdx) (b : Byte) : (s.setReg k b).waitx = s.waitx := rfl
@[simp] theorem setReg_changed (k : RegIdx) (b : Byte) : (s.setReg k b).changed = s.changed := rfl
@[simp] theorem setReg_err (k : RegIdx) (b : Byte) : (s.setReg k b).err = s.err := rfl
@[simp] theorem setReg_reply (k : RegIdx) (b : Byte) : (s.setReg k b).reply = s.reply := rfl
@[simp] theorem setReg_draws (k : RegIdx) (b : Byte) : (s.setReg k b).draws = s.draws := rfl
@[simp] theorem setReg_pending (k : RegIdx) (b : Byte) : (s.setReg k b).pending = s.pending := rfl
@[simp] theorem setReg_resetDone (k : RegIdx) (b : Byte) : (s.setReg k b).resetDone = s.resetDone := rfl

/-! ## setI -/

@[simp] theorem setI_v (w : Word) : (s.setI w).v = s.v := rfl
@[simp] theorem setI_pc (w : Word) : (s.setI w).pc = s.pc := rfl
@[simp] theorem setI_i (w : Word) : (s.setI w).i = w := rfl
@[simp] theorem setI_stack (w : Word) : (s.setI w).stack = s.stack := rfl
@[simp] theorem setI_sp (w : Word) : (s.setI w).sp = s.sp := rfl
@[simp] theorem setI_dt (w : Word) : (s.setI w).dt = s.dt := rfl
@[simp] theorem setI_st (w : Word) : (s.setI w).st = s.st := rfl
@[simp] theorem setI_mem (w : Word) : (s.setI w).mem = s.mem := rfl
@[simp] theorem setI_fb (w : Word) : (s.setI w).fb = s.fb := rfl
@[simp] theorem setI_redraw (w : Word) : (s.setI w).redraw = s.redraw := rfl
@[simp] theorem setI_key (w : Word) : (s.setI w).key = s.key := rfl
@[simp] theorem setI_opc (w : Word) : (s.setI w).opc = s.opc := rfl
@[simp] theorem setI_mode (w : Word) : (s.setI w).mode = s.mode := rfl
@[simp] theorem setI_waitx (w : Word) : (s.setI w).waitx = s.waitx := rfl
@[simp] theorem setI_changed (w : Word) : (s.setI w).changed = s.changed := rfl
@[simp] theorem setI_err (w : Word) : (s.setI w).err = s.err := rfl
@[simp] theorem setI_reply (w : Word) : (s.setI w).reply = s.reply := rfl
@[simp] theorem setI_draws (w : Word) : (s.setI w).draws = s.draws := rfl
@[simp] theorem setI_pending (w : Word) : (s.setI w).pending = s.pending := rfl
@[simp] theorem setI_resetDone (w : Word) : (s.setI w).resetDone = s.resetDone := rfl

/-! ## setDt -/

@[simp] theorem setDt_v (b : Byte) : (s.setDt b).v = s.v := rfl
@[simp] theorem setDt_pc (b : Byte) : (s.setDt b).pc = s.pc := rfl
@[simp] theorem setDt_i (b : Byte) : (s.setDt b).i = s.i := rfl
@[simp] theorem setDt_stack (b : Byte) : (s.setDt b).stack = s.stack := rfl
@[simp] theorem setDt_sp (b : Byte) : (s.setDt b).sp = s.sp := rfl
@[simp] theorem setDt_dt (b : Byte) : (s.setDt b).dt = b := rfl
@[simp] theorem setDt_st (b : Byte) : (s.setDt b).st = s.st := rfl
@[simp] theorem setDt_mem (b : Byte) : (s.setDt b).mem = s.mem := rfl
@[simp] theorem setDt_fb (b : Byte) : (s.setDt b).fb = s.fb := rfl
@[simp] theorem setDt_redraw (b : Byte) : (s.setDt b).redraw = s.redraw := rfl
@[simp] theorem setDt_key (b : Byte) : (s.setDt b).key = s.key := rfl
@[simp] theorem setDt_opc (b : Byte) : (s.setDt b).opc = s.opc := rfl
@[simp] theorem setDt_mode (b : Byte) : (s.setDt b).mode = s.mode := rfl
@[simp] theorem setDt_waitx (b : Byte) : (s.setDt b).waitx = s.waitx := rfl
@[simp] theorem setDt_changed (b : Byte) : (s.setDt b).changed = s.changed := rfl
@[simp] theorem setDt_err (b : Byte) : (s.setDt b).err = s.err := rfl
@[simp] theorem setDt_reply (b : Byte) : (s.setDt b).reply = s.reply := rfl
@[simp] theorem setDt_draws (b : Byte) : (s.setDt b).draws = s.draws := rfl
@[simp] theorem setDt_pending (b : Byte) : (s.setDt b).pending = s.pending := rfl
@[simp] theorem setDt_resetDone (b : Byte) : (s.setDt b).resetDone = s.resetDone := rfl

/-! ## setSt -/

@[simp] theorem setSt_v (b : Byte) : (s.setSt b).v = s.v := rfl
@[simp] theorem setSt_pc (b : Byte) : (s.setSt b).pc = s.pc := rfl
@[simp] theorem setSt_i (b : Byte) : (s.setSt b).i = s.i := rfl
@[simp] theorem setSt_stack (b : Byte) : (s.setSt b).stack = s.stack := rfl
@[simp] theorem setSt_sp (b : Byte) : (s.setSt b).sp = s.sp := rfl
@[simp] theorem setSt_dt (b : Byte) : (s.setSt b).dt = s.dt := rfl
@[simp] theorem setSt_st (b : Byte) : (s.setSt b).st = b := rfl
@[simp] theorem setSt_mem (b : Byte) : (s.setSt b).mem = s.mem := rfl
@[simp] theorem setSt_fb (b : Byte) : (s.setSt b).fb = s.fb := rfl
@[simp] theorem setSt_redraw (b : Byte) : (s.setSt b).redraw = s.redraw := rfl
@[simp] theorem setSt_key (b : Byte) : (s.setSt b).key = s.key := rfl
@[simp] theorem setSt_opc (b : Byte) : (s.setSt b).opc = s.opc := rfl
@[simp] theorem setSt_mode (b : Byte) : (s.setSt b).mode = s.mode := rfl
@[simp] theorem setSt_waitx (b : Byte) : (s.setSt b).waitx = s.waitx := rfl
@[simp] theorem setSt_changed (b : Byte) : (s.setSt b).changed = s.changed := rfl
@[simp] theorem setSt_err (b : Byte) : (s.setSt b).err = s.err := rfl
@[simp] theorem setSt_reply (b : Byte) : (s.setSt b).reply = s.reply := rfl
@[simp] theorem setSt_draws (b : Byte) : (s.setSt b).draws = s.draws := rfl
@[simp] theorem setSt_pending (b : Byte) : (s.setSt b).pending = s.pending := rfl
@[simp] theorem setSt_resetDone (b : Byte) : (s.setSt b).resetDone = s.resetDone := rfl

/-! ## setPc -/

@[simp] theorem setPc_v (w : Word) : (s.setPc w).v = s.v := rfl
@[simp] theorem setPc_pc (w : Word) : (s.setPc w).pc = w := rfl
@[simp] theorem setPc_i (w : Word) : (s.setPc w).i = s.i := rfl
@[simp] theorem setPc_stack (w : Word) : (s.setPc w).stack = s.stack := rfl
@[simp] theorem setPc_sp (w : Word) : (s.setPc w).sp = s.sp := rfl
@[simp] theorem setPc_dt (w : Word) : (s.setPc w).dt = s.dt := rfl
@[simp] theorem setPc_st (w : Word) : (s.setPc w).st = s.st := rfl
@[simp] theorem setPc_mem (w : Word) : (s.setPc w).mem = s.mem := rfl
@[simp] theorem setPc_fb (w : Word) : (s.setPc w).fb = s.fb := rfl
@[simp] theorem setPc_redraw (w : Word) : (s.setPc w).redraw = s.redraw := rfl
@[simp] theorem setPc_key (w : Word) : (s.setPc w).key = s.key := rfl
@[simp] theorem setPc_opc (w : Word) : (s.setPc w).opc = s.opc := rfl
@[simp] theorem setPc_mode (w : Word) : (s.setPc w).mode = s.mode := rfl
@[simp] theorem setPc_waitx (w : Word) : (s.setPc w).waitx = s.waitx := rfl
@[simp] theorem setPc_changed (w : Word) : (s.setPc w).changed = s.changed := rfl
@[simp] theorem setPc_err (w : Word) : (s.setPc w).err = s.err := rfl
@[simp] theorem setPc_reply (w : Word) : (s.setPc w).reply = s.reply := rfl
@[simp] theorem setPc_draws (w : Word) : (s.setPc w).draws = s.draws := rfl
@[simp] theorem setPc_pending (w : Word) : (s.setPc w).pending = s.pending := rfl
@[simp] theorem setPc_resetDone (w : Word) : (s.setPc w).resetDone = s.resetDone := rfl

/-! ## holdForKey -/

@[simp] theorem holdForKey_v (x : RegIdx) : (s.holdForKey x).v = s.v := rfl
@[simp] theorem holdForKey_pc (x : RegIdx) : (s.holdForKey x).pc = s.pc - 2 := rfl
@[simp] theorem holdForKey_i (x : RegIdx) : (s.holdForKey x).i = s.i := rfl
@[simp] theorem holdForKey_stack (x : RegIdx) : (s.holdForKey x).stack = s.stack := rfl
@[simp] theorem holdForKey_sp (x : RegIdx) : (s.holdForKey x).sp = s.sp := rfl
@[simp] theorem holdForKey_dt (x : RegIdx) : (s.holdForKey x).dt = s.dt := rfl
@[simp] theorem holdForKey_st (x : RegIdx) : (s.holdForKey x).st = s.st := rfl
@[simp] theorem holdForKey_mem (x : RegIdx) : (s.holdForKey x).mem = s.mem := rfl
@[simp] theorem holdForKey_fb (x : RegIdx) : (s.holdForKey x).fb = s.fb := rfl
@[simp] theorem holdForKey_redraw (x : RegIdx) : (s.holdForKey x).redraw = s.redraw := rfl
@[simp] theorem holdForKey_key (x : RegIdx) : (s.holdForKey x).key = s.key := rfl
@[simp] theorem holdForKey_opc (x : RegIdx) : (s.holdForKey x).opc = s.opc := rfl
@[simp] theorem holdForKey_mode (x : RegIdx) : (s.holdForKey x).mode = .waitKey := rfl
@[simp] theorem holdForKey_waitx (x : RegIdx) : (s.holdForKey x).waitx = x := rfl
@[simp] theorem holdForKey_changed (x : RegIdx) : (s.holdForKey x).changed = s.changed := rfl
@[simp] theorem holdForKey_err (x : RegIdx) : (s.holdForKey x).err = s.err := rfl
@[simp] theorem holdForKey_reply (x : RegIdx) : (s.holdForKey x).reply = s.reply := rfl
@[simp] theorem holdForKey_draws (x : RegIdx) : (s.holdForKey x).draws = s.draws := rfl
@[simp] theorem holdForKey_pending (x : RegIdx) : (s.holdForKey x).pending = s.pending := rfl
@[simp] theorem holdForKey_resetDone (x : RegIdx) : (s.holdForKey x).resetDone = s.resetDone := rfl

/-! ## resume -/

@[simp] theorem resume_v : s.resume.v = s.v := rfl
@[simp] theorem resume_pc : s.resume.pc = s.pc + 2 := rfl
@[simp] theorem resume_i : s.resume.i = s.i := rfl
@[simp] theorem resume_stack : s.resume.stack = s.stack := rfl
@[simp] theorem resume_sp : s.resume.sp = s.sp := rfl
@[simp] theorem resume_dt : s.resume.dt = s.dt := rfl
@[simp] theorem resume_st : s.resume.st = s.st := rfl
@[simp] theorem resume_mem : s.resume.mem = s.mem := rfl
@[simp] theorem resume_fb : s.resume.fb = s.fb := rfl
@[simp] theorem resume_redraw : s.resume.redraw = s.redraw := rfl
@[simp] theorem resume_key : s.resume.key = s.key := rfl
@[simp] theorem resume_opc : s.resume.opc = s.opc := rfl
@[simp] theorem resume_mode : s.resume.mode = .ready := rfl
@[simp] theorem resume_waitx : s.resume.waitx = s.waitx := rfl
@[simp] theorem resume_changed : s.resume.changed = s.changed := rfl
@[simp] theorem resume_err : s.resume.err = s.err := rfl
@[simp] theorem resume_reply : s.resume.reply = s.reply := rfl
@[simp] theorem resume_draws : s.resume.draws = s.draws := rfl
@[simp] theorem resume_pending : s.resume.pending = s.pending := rfl
@[simp] theorem resume_resetDone : s.resume.resetDone = s.resetDone := rfl

/-! ## memWrite -/

@[simp] theorem memWrite_v (a : Nat) (b : Byte) : (s.memWrite a b).v = s.v := rfl
@[simp] theorem memWrite_pc (a : Nat) (b : Byte) : (s.memWrite a b).pc = s.pc := rfl
@[simp] theorem memWrite_i (a : Nat) (b : Byte) : (s.memWrite a b).i = s.i := rfl
@[simp] theorem memWrite_stack (a : Nat) (b : Byte) : (s.memWrite a b).stack = s.stack := rfl
@[simp] theorem memWrite_sp (a : Nat) (b : Byte) : (s.memWrite a b).sp = s.sp := rfl
@[simp] theorem memWrite_dt (a : Nat) (b : Byte) : (s.memWrite a b).dt = s.dt := rfl
@[simp] theorem memWrite_st (a : Nat) (b : Byte) : (s.memWrite a b).st = s.st := rfl
@[simp] theorem memWrite_mem (a : Nat) (b : Byte) : (s.memWrite a b).mem = Memory.put s.mem (cellOf a) b := rfl
@[simp] theorem memWrite_fb (a : Nat) (b : Byte) : (s.memWrite a b).fb = s.fb := rfl
@[simp] theorem memWrite_redraw (a : Nat) (b : Byte) : (s.memWrite a b).redraw = s.redraw := rfl
@[simp] theorem memWrite_key (a : Nat) (b : Byte) : (s.memWrite a b).key = s.key := rfl
@[simp] theorem memWrite_opc (a : Nat) (b : Byte) : (s.memWrite a b).opc = s.opc := rfl
@[simp] theorem memWrite_mode (a : Nat) (b : Byte) : (s.memWrite a b).mode = s.mode := rfl
@[simp] theorem memWrite_waitx (a : Nat) (b : Byte) : (s.memWrite a b).waitx = s.waitx := rfl
@[simp] theorem memWrite_changed (a : Nat) (b : Byte) : (s.memWrite a b).changed = s.changed := rfl
@[simp] theorem memWrite_err (a : Nat) (b : Byte) : (s.memWrite a b).err = s.err := rfl
@[simp] theorem memWrite_reply (a : Nat) (b : Byte) : (s.memWrite a b).reply = s.reply := rfl
@[simp] theorem memWrite_draws (a : Nat) (b : Byte) : (s.memWrite a b).draws = s.draws := rfl
@[simp] theorem memWrite_pending (a : Nat) (b : Byte) : (s.memWrite a b).pending = s.pending := rfl
@[simp] theorem memWrite_resetDone (a : Nat) (b : Byte) : (s.memWrite a b).resetDone = s.resetDone := rfl

/-! ## raise -/

@[simp] theorem raise_v (e : Err) : (s.raise e).v = s.v := rfl
@[simp] theorem raise_pc (e : Err) : (s.raise e).pc = s.pc := rfl
@[simp] theorem raise_i (e : Err) : (s.raise e).i = s.i := rfl
@[simp] theorem raise_stack (e : Err) : (s.raise e).stack = s.stack := rfl
@[simp] theorem raise_sp (e : Err) : (s.raise e).sp = s.sp := rfl
@[simp] theorem raise_dt (e : Err) : (s.raise e).dt = s.dt := rfl
@[simp] theorem raise_st (e : Err) : (s.raise e).st = s.st := rfl
@[simp] theorem raise_mem (e : Err) : (s.raise e).mem = s.mem := rfl
@[simp] theorem raise_fb (e : Err) : (s.raise e).fb = s.fb := rfl
@[simp] theorem raise_redraw (e : Err) : (s.raise e).redraw = s.redraw := rfl
@[simp] theorem raise_key (e : Err) : (s.raise e).key = s.key := rfl
@[simp] theorem raise_opc (e : Err) : (s.raise e).opc = s.opc := rfl
@[simp] theorem raise_mode (e : Err) : (s.raise e).mode = s.mode := rfl
@[simp] theorem raise_waitx (e : Err) : (s.raise e).waitx = s.waitx := rfl
@[simp] theorem raise_changed (e : Err) : (s.raise e).changed = s.changed := rfl
@[simp] theorem raise_err (e : Err) : (s.raise e).err = e := rfl
@[simp] theorem raise_reply (e : Err) : (s.raise e).reply = s.reply := rfl
@[simp] theorem raise_draws (e : Err) : (s.raise e).draws = s.draws := rfl
@[simp] theorem raise_pending (e : Err) : (s.raise e).pending = s.pending := rfl
@[simp] theorem raise_resetDone (e : Err) : (s.raise e).resetDone = s.resetDone := rfl

/-! ## displayed -/

@[simp] theorem displayed_v (fb : Framebuffer) : (s.displayed fb).v = s.v := rfl
@[simp] theorem displayed_pc (fb : Framebuffer) : (s.displayed fb).pc = s.pc := rfl
@[simp] theorem displayed_i (fb : Framebuffer) : (s.displayed fb).i = s.i := rfl
@[simp] theorem displayed_stack (fb : Framebuffer) : (s.displayed fb).stack = s.stack := rfl
@[simp] theorem displayed_sp (fb : Framebuffer) : (s.displayed fb).sp = s.sp := rfl
@[simp] theorem displayed_dt (fb : Framebuffer) : (s.displayed fb).dt = s.dt := rfl
@[simp] theorem displayed_st (fb : Framebuffer) : (s.displayed fb).st = s.st := rfl
@[simp] theorem displayed_mem (fb : Framebuffer) : (s.displayed fb).mem = s.mem := rfl
@[simp] theorem displayed_fb (fb : Framebuffer) : (s.displayed fb).fb = fb := rfl
@[simp] theorem displayed_redraw (fb : Framebuffer) : (s.displayed fb).redraw = true := rfl
@[simp] theorem displayed_key (fb : Framebuffer) : (s.displayed fb).key = s.key := rfl
@[simp] theorem displayed_opc (fb : Framebuffer) : (s.displayed fb).opc = s.opc := rfl
@[simp] theorem displayed_mode (fb : Framebuffer) : (s.displayed fb).mode = s.mode := rfl
@[simp] theorem displayed_waitx (fb : Framebuffer) : (s.displayed fb).waitx = s.waitx := rfl
@[simp] theorem displayed_changed (fb : Framebuffer) : (s.displayed fb).changed = true := rfl
@[simp] theorem displayed_err (fb : Framebuffer) : (s.displayed fb).err = s.err := rfl
@[simp] theorem displayed_reply (fb : Framebuffer) : (s.displayed fb).reply = s.reply := rfl
@[simp] theorem displayed_draws (fb : Framebuffer) : (s.displayed fb).draws = s.draws := rfl
@[simp] theorem displayed_pending (fb : Framebuffer) : (s.displayed fb).pending = s.pending := rfl
@[simp] theorem displayed_resetDone (fb : Framebuffer) : (s.displayed fb).resetDone = s.resetDone := rfl

/-! ## drawn -/

@[simp] theorem drawn_v : s.drawn.v = s.v := rfl
@[simp] theorem drawn_pc : s.drawn.pc = s.pc := rfl
@[simp] theorem drawn_i : s.drawn.i = s.i := rfl
@[simp] theorem drawn_stack : s.drawn.stack = s.stack := rfl
@[simp] theorem drawn_sp : s.drawn.sp = s.sp := rfl
@[simp] theorem drawn_dt : s.drawn.dt = s.dt := rfl
@[simp] theorem drawn_st : s.drawn.st = s.st := rfl
@[simp] theorem drawn_mem : s.drawn.mem = s.mem := rfl
@[simp] theorem drawn_fb : s.drawn.fb = s.fb := rfl
@[simp] theorem drawn_redraw : s.drawn.redraw = s.redraw := rfl
@[simp] theorem drawn_key : s.drawn.key = s.key := rfl
@[simp] theorem drawn_opc : s.drawn.opc = s.opc := rfl
@[simp] theorem drawn_mode : s.drawn.mode = s.mode := rfl
@[simp] theorem drawn_waitx : s.drawn.waitx = s.waitx := rfl
@[simp] theorem drawn_changed : s.drawn.changed = s.changed := rfl
@[simp] theorem drawn_err : s.drawn.err = s.err := rfl
@[simp] theorem drawn_reply : s.drawn.reply = s.reply := rfl
@[simp] theorem drawn_draws : s.drawn.draws = s.draws + 1 := rfl
@[simp] theorem drawn_pending : s.drawn.pending = s.pending := rfl
@[simp] theorem drawn_resetDone : s.drawn.resetDone = s.resetDone := rfl

/-! ## beginCommand -/

@[simp] theorem beginCommand_v : s.beginCommand.v = s.v := rfl
@[simp] theorem beginCommand_pc : s.beginCommand.pc = s.pc := rfl
@[simp] theorem beginCommand_i : s.beginCommand.i = s.i := rfl
@[simp] theorem beginCommand_stack : s.beginCommand.stack = s.stack := rfl
@[simp] theorem beginCommand_sp : s.beginCommand.sp = s.sp := rfl
@[simp] theorem beginCommand_dt : s.beginCommand.dt = s.dt := rfl
@[simp] theorem beginCommand_st : s.beginCommand.st = s.st := rfl
@[simp] theorem beginCommand_mem : s.beginCommand.mem = s.mem := rfl
@[simp] theorem beginCommand_fb : s.beginCommand.fb = s.fb := rfl
@[simp] theorem beginCommand_redraw : s.beginCommand.redraw = s.redraw := rfl
@[simp] theorem beginCommand_key : s.beginCommand.key = s.key := rfl
@[simp] theorem beginCommand_opc : s.beginCommand.opc = s.opc := rfl
@[simp] theorem beginCommand_mode : s.beginCommand.mode = s.mode := rfl
@[simp] theorem beginCommand_waitx : s.beginCommand.waitx = s.waitx := rfl
@[simp] theorem beginCommand_changed : s.beginCommand.changed = false := rfl
@[simp] theorem beginCommand_err : s.beginCommand.err = .none := rfl
@[simp] theorem beginCommand_reply : s.beginCommand.reply = .nothing := rfl
@[simp] theorem beginCommand_draws : s.beginCommand.draws = s.draws := rfl
@[simp] theorem beginCommand_pending : s.beginCommand.pending = s.pending := rfl
@[simp] theorem beginCommand_resetDone : s.beginCommand.resetDone = s.resetDone := rfl

/-! ## fetched -/

@[simp] theorem fetched_v : s.fetched.v = s.v := rfl
@[simp] theorem fetched_pc : s.fetched.pc = s.pc + 2 := rfl
@[simp] theorem fetched_i : s.fetched.i = s.i := rfl
@[simp] theorem fetched_stack : s.fetched.stack = s.stack := rfl
@[simp] theorem fetched_sp : s.fetched.sp = s.sp := rfl
@[simp] theorem fetched_dt : s.fetched.dt = s.dt := rfl
@[simp] theorem fetched_st : s.fetched.st = s.st := rfl
@[simp] theorem fetched_mem : s.fetched.mem = s.mem := rfl
@[simp] theorem fetched_fb : s.fetched.fb = s.fb := rfl
@[simp] theorem fetched_redraw : s.fetched.redraw = s.redraw := rfl
@[simp] theorem fetched_key : s.fetched.key = s.key := rfl
@[simp] theorem fetched_opc : s.fetched.opc = s.fetchWord := rfl
@[simp] theorem fetched_mode : s.fetched.mode = s.mode := rfl
@[simp] theorem fetched_waitx : s.fetched.waitx = s.waitx := rfl
@[simp] theorem fetched_changed : s.fetched.changed = false := rfl
@[simp] theorem fetched_err : s.fetched.err = .none := rfl
@[simp] theorem fetched_reply : s.fetched.reply = .nothing := rfl
@[simp] theorem fetched_draws : s.fetched.draws = s.draws := rfl
@[simp] theorem fetched_pending : s.fetched.pending = s.pending := rfl
@[simp] theorem fetched_resetDone : s.fetched.resetDone = s.resetDone := rfl

/-! ## takeCommand -/

@[simp] theorem takeCommand_v : s.takeCommand.v = s.v := rfl
@[simp] theorem takeCommand_pc : s.takeCommand.pc = s.pc := rfl
@[simp] theorem takeCommand_i : s.takeCommand.i = s.i := rfl
@[simp] theorem takeCommand_stack : s.takeCommand.stack = s.stack := rfl
@[simp] theorem takeCommand_sp : s.takeCommand.sp = s.sp := rfl
@[simp] theorem takeCommand_dt : s.takeCommand.dt = s.dt := rfl
@[simp] theorem takeCommand_st : s.takeCommand.st = s.st := rfl
@[simp] theorem takeCommand_mem : s.takeCommand.mem = s.mem := rfl
@[simp] theorem takeCommand_fb : s.takeCommand.fb = s.fb := rfl
@[simp] theorem takeCommand_redraw : s.takeCommand.redraw = s.redraw := rfl
@[simp] theorem takeCommand_key : s.takeCommand.key = s.key := rfl
@[simp] theorem takeCommand_opc : s.takeCommand.opc = s.opc := rfl
@[simp] theorem takeCommand_mode : s.takeCommand.mode = s.mode := rfl
@[simp] theorem takeCommand_waitx : s.takeCommand.waitx = s.waitx := rfl
@[simp] theorem takeCommand_changed : s.takeCommand.changed = s.changed := rfl
@[simp] theorem takeCommand_err : s.takeCommand.err = s.err := rfl
@[simp] theorem takeCommand_reply : s.takeCommand.reply = s.reply := rfl
@[simp] theorem takeCommand_draws : s.takeCommand.draws = s.draws := rfl
@[simp] theorem takeCommand_pending : s.takeCommand.pending = s.pending.tail := rfl
@[simp] theorem takeCommand_resetDone : s.takeCommand.resetDone = s.resetDone := rfl

end Sys2Proof.Machine
end

