-- ==== Sys2Proof/Laws/Memory.lean ====
section
/-!
SUPPORT. The laws of memory: a read after a write, the canonical form, and the writes of consecutive bytes.
-/
namespace Sys2Proof.Machine

/-! ## The list -/

theorem Memory.get_insert (m : Memory) (a k : Nat) (b : Byte) :
    Memory.get (Memory.insert a b m) k = if k = a then b else Memory.get m k := by
  induction m with
  | nil =>
    by_cases h : k = a
    · simp [Memory.insert, Memory.get, h]
    · simp [Memory.insert, Memory.get, h, Ne.symm h]
  | cons c m ih =>
    obtain ⟨j, c⟩ := c
    simp only [Memory.insert]
    split
    · by_cases h : k = a
      · simp [Memory.get, h]
      · simp [Memory.get, h, Ne.symm h]
    · split
      · subst_vars
        by_cases h : k = j
        · simp [Memory.get, h]
        · simp [Memory.get, h, Ne.symm h]
      · by_cases h : j = k
        · subst h; simp [Memory.get, Ne.symm ‹¬a = j›]
        · simp [Memory.get, h, ih]

theorem Memory.get_filter_ne (m : Memory) (a k : Nat) :
    Memory.get (m.filter (fun c => c.1 ≠ a)) k = if k = a then resetByte a else Memory.get m k := by
  induction m with
  | nil => by_cases h : k = a <;> simp [Memory.get, h]
  | cons c m ih =>
    obtain ⟨j, c⟩ := c
    by_cases hj : j = a
    · subst hj
      rw [List.filter_cons_of_neg (by simp), ih]
      by_cases h : k = j
      · simp [h]
      · simp [Memory.get, h, Ne.symm h]
    · rw [List.filter_cons_of_pos (by simp [hj])]
      by_cases h : j = k
      · subst h; simp [Memory.get, hj]
      · simp only [Memory.get, if_neg h, ih]

/-- A read after a write: the byte written there, and every other address as before. -/
theorem Memory.get_put (m : Memory) (a k : Nat) (b : Byte) :
    Memory.get (Memory.put m a b) k = if k = a then b else Memory.get m k := by
  unfold Memory.put
  split
  · rw [Memory.get_filter_ne]; simp_all
  · exact Memory.get_insert m a k b

theorem Memory.mem_insert {m : Memory} {a : Nat} {b : Byte} {c : Host.Cell}
    (h : c ∈ Memory.insert a b m) : c = (a, b) ∨ c ∈ m := by
  induction m with
  | nil => simpa [Memory.insert] using h
  | cons d m ih =>
    obtain ⟨j, d⟩ := d
    simp only [Memory.insert] at h
    split at h
    · simpa using h
    · split at h <;> simp only [List.mem_cons] at h ⊢ <;> tauto

theorem Memory.pairwise_insert {m : Memory} (a : Nat) (b : Byte)
    (h : m.Pairwise (fun p q => p.1 < q.1)) :
    (Memory.insert a b m).Pairwise (fun p q => p.1 < q.1) := by
  induction m with
  | nil => simp [Memory.insert]
  | cons c m ih =>
    obtain ⟨j, c⟩ := c
    obtain ⟨hc, hm⟩ := List.pairwise_cons.1 h
    simp only [Memory.insert]
    split
    · refine List.pairwise_cons.2 ⟨fun q hq => ?_, h⟩
      rcases List.mem_cons.1 hq with rfl | hq
      · assumption
      · have := hc q hq; simp only at this ⊢; omega
    · split
      · subst_vars; exact List.pairwise_cons.2 ⟨hc, hm⟩
      · refine List.pairwise_cons.2 ⟨fun q hq => ?_, ih hm⟩
        rcases Memory.mem_insert hq with rfl | hq
        · simp only; omega
        · exact hc q hq

/-- Every write keeps the canonical form. -/
theorem Memory.put_wf {m : Memory} (h : m.wf) {a : Nat} (ha : a < Config.memSize) (b : Byte) :
    (Memory.put m a b).wf := by
  unfold Memory.put
  split
  · exact ⟨h.1.filter _, fun c hc => h.2 c (List.mem_filter.1 hc).1⟩
  · refine ⟨Memory.pairwise_insert a b h.1, fun c hc => ?_⟩
    rcases Memory.mem_insert hc with rfl | hc
    · exact ⟨ha, by assumption⟩
    · exact h.2 c hc

theorem Memory.get_of_forall_ne {m : Memory} {a : Nat} (h : ∀ c ∈ m, c.1 ≠ a) :
    Memory.get m a = resetByte a := by
  induction m with
  | nil => rfl
  | cons c m ih =>
    obtain ⟨j, c⟩ := c
    simp only [List.forall_mem_cons] at h
    simp [Memory.get, h.1, ih h.2]

/-- In canonical form the list is decided by what it reads as: equal memories are equal data. -/
theorem Memory.eq_of_get_eq {m n : Memory} (hm : m.wf) (hn : n.wf)
    (h : ∀ a, Memory.get m a = Memory.get n a) : m = n := by
  have tail_wf : ∀ {c : Host.Cell} {l : Memory}, Memory.wf (c :: l) → l.wf := fun hl =>
    ⟨(List.pairwise_cons.1 hl.1).2, fun d hd => hl.2 d (List.mem_cons_of_mem _ hd)⟩
  have get_lt : ∀ {c : Host.Cell} {l : Memory}, Memory.wf (c :: l) → ∀ a < c.1, Memory.get (c :: l) a = resetByte a := by
    intro c l hl a ha
    apply Memory.get_of_forall_ne
    intro d hd
    rcases List.mem_cons.1 hd with rfl | hd
    · omega
    · have := (List.pairwise_cons.1 hl.1).1 d hd; omega
  have get_head : ∀ (c : Host.Cell) (l : Memory), Memory.get (c :: l) c.1 = c.2 := fun c l => by simp [Memory.get]
  induction m generalizing n with
  | nil =>
    cases n with
    | nil => rfl
    | cons d n =>
      have := h d.1
      rw [get_head] at this
      exact absurd this.symm (hn.2 d (by simp)).2
  | cons c m ih =>
    cases n with
    | nil =>
      have := h c.1
      rw [get_head] at this
      exact absurd this (hm.2 c (by simp)).2
    | cons d n =>
      have hcd : c.1 = d.1 := by
        rcases Nat.lt_trichotomy c.1 d.1 with hlt | heq | hgt
        · have := h c.1
          rw [get_head, get_lt hn _ hlt] at this
          exact absurd this (hm.2 c (by simp)).2
        · exact heq
        · have := h d.1
          rw [get_head, get_lt hm _ hgt] at this
          exact absurd this.symm (hn.2 d (by simp)).2
      have hcd2 : c.2 = d.2 := by
        have := h c.1
        rw [get_head, hcd, get_head] at this
        exact this
      have hc : c = d := Prod.ext hcd hcd2
      subst hc
      congr 1
      refine ih (tail_wf hm) (tail_wf hn) fun a => ?_
      have ha := h a
      by_cases hca : c.1 = a
      · subst hca
        rw [Memory.get_of_forall_ne, Memory.get_of_forall_ne]
        · intro d hd; have := (List.pairwise_cons.1 hn.1).1 d hd; omega
        · intro d hd; have := (List.pairwise_cons.1 hm.1).1 d hd; omega
      · simpa [Memory.get, hca] using ha

/-! ## Reads and writes of the machine -/

theorem cellOf_lt (a : Nat) : cellOf a < Config.memSize := Nat.mod_lt _ (by decide)

variable (s : State)

/-- `MemRead` after `MemWrite` (20_memory.md R32, R33). -/
@[simp] theorem memRead_memWrite (a k : Nat) (b : Byte) :
    (s.memWrite a b).memRead k = if cellOf k = cellOf a then b else s.memRead k :=
  Memory.get_put s.mem (cellOf a) (cellOf k) b

theorem memWrite_wf {s : State} (h : s.mem.wf) (a : Nat) (b : Byte) : (s.memWrite a b).mem.wf :=
  Memory.put_wf h (cellOf_lt a) b

/-- Writing consecutive bytes changes memory alone. -/
theorem memWriteAll_eq (a : Nat) (bs : List Byte) :
    s.memWriteAll a bs = { s with mem := (s.memWriteAll a bs).mem } := by
  induction bs generalizing s a with
  | nil => rfl
  | cons b bs ih => rw [State.memWriteAll, ih]; simp [State.memWrite]

theorem memWriteAll_wf {s : State} (h : s.mem.wf) (a : Nat) (bs : List Byte) : (s.memWriteAll a bs).mem.wf := by
  induction bs generalizing s a with
  | nil => exact h
  | cons b bs ih => exact ih (memWrite_wf h a b) (a + 1)

/-- An address outside the written cells reads as before. -/
theorem memRead_memWriteAll_of_ne (a k : Nat) (bs : List Byte)
    (h : ∀ j < bs.length, cellOf k ≠ cellOf (a + j)) : (s.memWriteAll a bs).memRead k = s.memRead k := by
  induction bs generalizing s a with
  | nil => rfl
  | cons b bs ih =>
    have h0 := h 0 (by simp)
    rw [State.memWriteAll, ih, memRead_memWrite, if_neg (by simpa using h0)]
    intro j hj
    have := h (j + 1) (by simpa using hj)
    rwa [show a + (j + 1) = a + 1 + j by omega] at this

/-- The j-th written address reads the j-th byte, when the writes fit in memory. -/
theorem memRead_memWriteAll (a j : Nat) (bs : List Byte) (hj : j < bs.length)
    (hlen : bs.length ≤ Config.memSize) : (s.memWriteAll a bs).memRead (a + j) = bs[j] := by
  induction bs generalizing s a j with
  | nil => simp at hj
  | cons b bs ih =>
    simp only [List.length_cons] at hj hlen
    cases j with
    | zero =>
      rw [State.memWriteAll, memRead_memWriteAll_of_ne, memRead_memWrite]
      · simp
      · intro i hi
        simp only [cellOf, Config.memSize] at hlen ⊢
        omega
    | succ j =>
      rw [State.memWriteAll, show a + (j + 1) = a + 1 + j by omega, ih _ _ _ (by omega) (by omega)]
      simp

section fields
variable (a : Nat) (bs : List Byte)
@[simp] theorem memWriteAll_v : (s.memWriteAll a bs).v = s.v := by rw [memWriteAll_eq]
@[simp] theorem memWriteAll_pc : (s.memWriteAll a bs).pc = s.pc := by rw [memWriteAll_eq]
@[simp] theorem memWriteAll_i : (s.memWriteAll a bs).i = s.i := by rw [memWriteAll_eq]
@[simp] theorem memWriteAll_stack : (s.memWriteAll a bs).stack = s.stack := by rw [memWriteAll_eq]
@[simp] theorem memWriteAll_sp : (s.memWriteAll a bs).sp = s.sp := by rw [memWriteAll_eq]
@[simp] theorem memWriteAll_dt : (s.memWriteAll a bs).dt = s.dt := by rw [memWriteAll_eq]
@[simp] theorem memWriteAll_st : (s.memWriteAll a bs).st = s.st := by rw [memWriteAll_eq]
@[simp] theorem memWriteAll_fb : (s.memWriteAll a bs).fb = s.fb := by rw [memWriteAll_eq]
@[simp] theorem memWriteAll_redraw : (s.memWriteAll a bs).redraw = s.redraw := by rw [memWriteAll_eq]
@[simp] theorem memWriteAll_key : (s.memWriteAll a bs).key = s.key := by rw [memWriteAll_eq]
@[simp] theorem memWriteAll_opc : (s.memWriteAll a bs).opc = s.opc := by rw [memWriteAll_eq]
@[simp] theorem memWriteAll_mode : (s.memWriteAll a bs).mode = s.mode := by rw [memWriteAll_eq]
@[simp] theorem memWriteAll_waitx : (s.memWriteAll a bs).waitx = s.waitx := by rw [memWriteAll_eq]
@[simp] theorem memWriteAll_changed : (s.memWriteAll a bs).changed = s.changed := by rw [memWriteAll_eq]
@[simp] theorem memWriteAll_err : (s.memWriteAll a bs).err = s.err := by rw [memWriteAll_eq]
@[simp] theorem memWriteAll_reply : (s.memWriteAll a bs).reply = s.reply := by rw [memWriteAll_eq]
@[simp] theorem memWriteAll_draws : (s.memWriteAll a bs).draws = s.draws := by rw [memWriteAll_eq]
@[simp] theorem memWriteAll_pending : (s.memWriteAll a bs).pending = s.pending := by rw [memWriteAll_eq]
@[simp] theorem memWriteAll_resetDone : (s.memWriteAll a bs).resetDone = s.resetDone := by rw [memWriteAll_eq]
end fields

end Sys2Proof.Machine
end

