-- ==== Sys2Proof/Laws/Ops.lean ====
section
/-!
SUPPORT. One lemma per shared operation over registers, program counter, stack and keys: all it can do.
-/
namespace Sys2Proof.Machine

variable (s : State)

/-! ## Registers -/

@[simp] theorem reg_setReg (k j : RegIdx) (b : Byte) : (s.setReg k b).reg j = if j = k then b else s.reg j := by
  simp only [State.reg, State.setReg, Vector.getElem_set, Fin.ext_iff, eq_comm]

/-- A flag-writing instruction leaves the flag in VF, and the result in V[x] when x is not 0xF (43_alu.md R86). -/
theorem reg_setRegFlag (x j : RegIdx) (b : Byte) (f : Bool) :
    (s.setRegFlag x b f).reg j = if j = vf then flagByte f else if j = x then b else s.reg j := by
  simp [State.setRegFlag]

/-- Two states with the same registers read alike have the same register file. -/
theorem v_eq_of_reg_eq {s t : State} (h : ∀ k, t.reg k = s.reg k) : t.v = s.v := by
  apply Vector.ext
  intro k hk
  exact h ⟨k, hk⟩

@[simp] theorem memRead_setReg (k : RegIdx) (b : Byte) (a : Nat) : (s.setReg k b).memRead a = s.memRead a := rfl
@[simp] theorem memRead_setPc (w : Word) (a : Nat) : (s.setPc w).memRead a = s.memRead a := rfl
@[simp] theorem memRead_setI (w : Word) (a : Nat) : (s.setI w).memRead a = s.memRead a := rfl
@[simp] theorem reg_setI (w : Word) (k : RegIdx) : (s.setI w).reg k = s.reg k := rfl
@[simp] theorem memRead_setDt (b : Byte) (a : Nat) : (s.setDt b).memRead a = s.memRead a := rfl
@[simp] theorem reg_setDt (b : Byte) (k : RegIdx) : (s.setDt b).reg k = s.reg k := rfl
@[simp] theorem memRead_setSt (b : Byte) (a : Nat) : (s.setSt b).memRead a = s.memRead a := rfl
@[simp] theorem reg_setSt (b : Byte) (k : RegIdx) : (s.setSt b).reg k = s.reg k := rfl
@[simp] theorem memRead_holdForKey (x : RegIdx) (a : Nat) : (s.holdForKey x).memRead a = s.memRead a := rfl
@[simp] theorem reg_holdForKey (x : RegIdx) (k : RegIdx) : (s.holdForKey x).reg k = s.reg k := rfl
@[simp] theorem memRead_resume (a : Nat) : s.resume.memRead a = s.memRead a := rfl
@[simp] theorem reg_resume (k : RegIdx) : s.resume.reg k = s.reg k := rfl
@[simp] theorem memRead_raise (e : Err) (a : Nat) : (s.raise e).memRead a = s.memRead a := rfl
@[simp] theorem memRead_displayed (fb : Framebuffer) (a : Nat) : (s.displayed fb).memRead a = s.memRead a := rfl
@[simp] theorem memRead_drawn (a : Nat) : s.drawn.memRead a = s.memRead a := rfl
@[simp] theorem memRead_beginCommand (a : Nat) : s.beginCommand.memRead a = s.memRead a := rfl
@[simp] theorem memRead_fetched (a : Nat) : s.fetched.memRead a = s.memRead a := rfl
@[simp] theorem reg_setPc (w : Word) (k : RegIdx) : (s.setPc w).reg k = s.reg k := rfl
@[simp] theorem reg_raise (e : Err) (k : RegIdx) : (s.raise e).reg k = s.reg k := rfl
@[simp] theorem reg_displayed (fb : Framebuffer) (k : RegIdx) : (s.displayed fb).reg k = s.reg k := rfl
@[simp] theorem reg_drawn (k : RegIdx) : s.drawn.reg k = s.reg k := rfl
@[simp] theorem reg_beginCommand (k : RegIdx) : s.beginCommand.reg k = s.reg k := rfl
@[simp] theorem reg_fetched (k : RegIdx) : s.fetched.reg k = s.reg k := rfl
@[simp] theorem memRead_takeCommand (a : Nat) : s.takeCommand.memRead a = s.memRead a := rfl
@[simp] theorem reg_takeCommand (k : RegIdx) : s.takeCommand.reg k = s.reg k := rfl
@[simp] theorem reg_memWrite (a : Nat) (b : Byte) (k : RegIdx) : (s.memWrite a b).reg k = s.reg k := rfl
@[simp] theorem reg_memWriteAll (a : Nat) (bs : List Byte) (k : RegIdx) : (s.memWriteAll a bs).reg k = s.reg k := by
  simp [State.reg]
@[simp] theorem keyDown_setReg (j k : RegIdx) (b : Byte) : (s.setReg j b).keyDown k = s.keyDown k := rfl
@[simp] theorem keyDown_beginCommand (k : RegIdx) : s.beginCommand.keyDown k = s.keyDown k := rfl
@[simp] theorem keyDown_fetched (k : RegIdx) : s.fetched.keyDown k = s.keyDown k := rfl
@[simp] theorem keyDown_takeCommand (k : RegIdx) : s.takeCommand.keyDown k = s.keyDown k := rfl
@[simp] theorem keyDown_memWriteAll (a : Nat) (bs : List Byte) (k : RegIdx) :
    (s.memWriteAll a bs).keyDown k = s.keyDown k := by simp [State.keyDown]

/-! ## Program counter -/

/-- A skip changes PC alone: by 2 when its condition holds, and not otherwise (40_step.md R64). -/
theorem skipIf_eq (b : Bool) : s.skipIf b = { s with pc := if b then s.pc + 2 else s.pc } := by
  cases b <;> rfl

/-! ## Stack -/

/-- `Push` below 16 entries. -/
theorem push_of_lt {s : State} (h : s.sp.val < 16) (w : Word) :
    s.push w = (true, { s with stack := s.stack.set s.sp.val w, sp := ⟨s.sp.val + 1, by omega⟩ }) := by
  simp [State.push, h]

/-- `Push` on a full stack. -/
theorem push_of_full {s : State} (h : s.sp = 16) (w : Word) :
    s.push w = (false, s.raise (.stackOverflow s.opc)) := by
  simp [State.push, h]

/-- `Pop` of a stack that is not empty. -/
theorem pop_of_pos {s : State} (h : 0 < s.sp.val) :
    s.pop = (some (s.stack[s.sp.val - 1]), { s with sp := ⟨s.sp.val - 1, by omega⟩ }) := by
  simp [State.pop, h]

/-- `Pop` of an empty stack. -/
theorem pop_of_empty {s : State} (h : s.sp = 0) : s.pop = (none, s.raise (.stackUnderflow s.opc)) := by
  simp [State.pop, h]

/-- SP is below 16 or the stack is full. -/
theorem sp_lt_or_full : s.sp.val < 16 ∨ s.sp = 16 := by
  have := s.sp.isLt
  rcases Nat.lt_or_ge s.sp.val 16 with h | h
  · exact .inl h
  · exact .inr (Fin.ext (by show s.sp.val = 16; omega))

/-- The stack is empty or holds an entry. -/
theorem sp_zero_or_pos : s.sp = 0 ∨ 0 < s.sp.val := by
  rcases Nat.eq_zero_or_pos s.sp.val with h | h
  · exact .inl (Fin.ext h)
  · exact .inr h

/-! ## Keys -/

/-- The key Fx0A takes is pressed, and no smaller key is (45_keys_timers.md R109). -/
theorem firstKey_eq_some {s : State} {k : RegIdx} (h : s.firstKey = some k) :
    s.keyDown k = true ∧ ∀ j < k, s.keyDown j = false := by
  revert h
  simp only [State.firstKey]
  generalize hp : s.keyDown = p
  intro h
  obtain ⟨h1, as, bs, h2, h3⟩ := List.find?_eq_some_iff_append.1 h
  refine ⟨h1, fun j hj => ?_⟩
  have hmem : j ∈ as ++ k :: bs := h2 ▸ List.mem_finRange j
  have hsorted : (as ++ k :: bs).Pairwise (· < ·) := h2 ▸ List.pairwise_lt_finRange 16
  rcases List.mem_append.1 hmem with hj' | hj'
  · simpa using h3 j hj'
  · rcases List.mem_cons.1 hj' with rfl | hj'
    · exact absurd hj (lt_irrefl _)
    · have := (List.pairwise_cons.1 (List.pairwise_append.1 hsorted).2.1).1 j hj'
      exact absurd hj (lt_asymm this)

/-- Fx0A waits exactly when no key is pressed. -/
theorem firstKey_eq_none {s : State} : s.firstKey = none ↔ ∀ k, s.keyDown k = false := by
  simp [State.firstKey]

/-- The smallest pressed key is the one Fx0A takes. -/
theorem firstKey_of_smallest {s : State} {k : RegIdx} (hk : s.keyDown k = true) (h : ∀ j < k, s.keyDown j = false) :
    s.firstKey = some k := by
  cases hf : s.firstKey with
  | none => rw [firstKey_eq_none.1 hf k] at hk; cases hk
  | some j =>
    obtain ⟨hj, hlt⟩ := firstKey_eq_some hf
    rcases lt_trichotomy j k with hjk | rfl | hjk
    · rw [h j hjk] at hj; cases hj
    · rfl
    · rw [hlt k hjk] at hk; cases hk

/-! ## Block loads and stores -/

/-- A block load changes the register file alone. -/
theorem loadRegs_eq (n : Nat) : s.loadRegs n = { s with v := (s.loadRegs n).v } := by
  induction n with
  | zero => rfl
  | succ n ih => rw [State.loadRegs, ih]; rfl

/-- A block load of n registers loads V0..Vn-1 from the bytes at I and above, and no other register. -/
theorem reg_loadRegs (n : Nat) (hn : n ≤ 16) (k : RegIdx) :
    (s.loadRegs n).reg k = if k.val < n then s.memRead (s.indexAddr k.val) else s.reg k := by
  induction n with
  | zero => simp [State.loadRegs]
  | succ n ih =>
    have hk : k = Fin.ofNat 16 n ↔ k.val = n := by
      rw [Fin.ext_iff]; simp only [Fin.ofNat]; rw [Nat.mod_eq_of_lt (by omega)]
    rw [State.loadRegs, reg_setReg, ih (by omega)]
    by_cases h : k.val = n
    · rw [if_pos (hk.2 h), if_pos (by omega), h]
    · rw [if_neg (mt hk.1 h)]
      by_cases h' : k.val < n
      · rw [if_pos h', if_pos (by omega)]
      · rw [if_neg h', if_neg (by omega)]

/-- A block store of n registers stores n bytes. -/
theorem length_firstRegs (n : Nat) (hn : n ≤ 16) : (s.firstRegs n).length = n := by
  simp [State.firstRegs, hn]

/-- The bytes a block store stores are V0..Vn-1 in order. -/
theorem getElem_firstRegs (n j : Nat) (h : j < (s.firstRegs n).length) (hj : j < 16) :
    (s.firstRegs n)[j] = s.reg ⟨j, hj⟩ := by
  simp [State.firstRegs, State.reg]

end Sys2Proof.Machine
end

