-- ==== Sys2Proof/Laws/Display.lean ====
section
/-!
SUPPORT. The framebuffer and the blitter: what the loops of Dxyn do to each pixel, and when they report a collision.
-/
namespace Sys2Proof.Machine

/-- Flipping a pixel changes that pixel and no other. -/
theorem pixel_flip (fb : Framebuffer) (c c' : Fin 64) (r r' : Fin 32) :
    (fb.flip c r).pixel c' r' = if c' = c ∧ r' = r then !fb.pixel c r else fb.pixel c' r' := by
  simp only [Framebuffer.flip, Framebuffer.pixel, Vector.getElem_set]
  by_cases hr : r' = r
  · subst hr
    by_cases hc : c' = c
    · subst hc; simp
    · have : ¬ c.val = c'.val := fun h => hc (Fin.ext h.symm)
      simp [hc, this]
  · have : ¬ r.val = r'.val := fun h => hr (Fin.ext h.symm)
    simp [hr, this]

@[simp] theorem pixel_clear (c : Fin 64) (r : Fin 32) : Framebuffer.clear.pixel c r = false := by
  simp [Framebuffer.clear, Framebuffer.pixel]

/-- Two framebuffers with the same pixels are equal. -/
theorem fb_eq_of_pixel_eq {f g : Framebuffer} (h : ∀ c r, f.pixel c r = g.pixel c r) : f = g := by
  apply Vector.ext; intro r hr
  apply Vector.ext; intro c hc
  exact h ⟨c, hc⟩ ⟨r, hr⟩

/-- The first n column offsets of a sprite row have a 1 bit for the pixel (c, r). -/
def rowBit (b : Byte) (c0 row n : Nat) (c : Fin 64) (r : Fin 32) : Bool :=
  decide (r.val = row ∧ c0 ≤ c.val ∧ c.val < c0 + n) && b.getLsbD (7 - (c.val - c0))

/-- What a pass over some pixels does, given which pixels have a sprite bit: it flips those pixels, and it collides when one
of them was lit. -/
structure Blits (bit : Fin 64 → Fin 32 → Bool) (acc acc' : Framebuffer × Bool) : Prop where
  pixel : ∀ c r, acc'.1.pixel c r = (acc.1.pixel c r ^^ bit c r)
  hit : acc'.2 = true ↔ acc.2 = true ∨ ∃ c r, bit c r = true ∧ acc.1.pixel c r = true

/-- Two passes over disjoint sets of pixels are one pass over both. -/
theorem Blits.trans {b1 b2 : Fin 64 → Fin 32 → Bool} {acc acc1 acc2 : Framebuffer × Bool}
    (h1 : Blits b1 acc acc1) (h2 : Blits b2 acc1 acc2) (hd : ∀ c r, b2 c r = true → b1 c r = false) :
    Blits (fun c r => b1 c r || b2 c r) acc acc2 := by
  have same : ∀ c r, b2 c r = true → acc1.1.pixel c r = acc.1.pixel c r := fun c r h => by
    rw [h1.pixel, hd c r h]; simp
  constructor
  · intro c r
    rw [h2.pixel, h1.pixel]
    have := hd c r
    cases h : b1 c r <;> cases h' : b2 c r <;> simp_all
  · rw [h2.hit, h1.hit]
    constructor
    · rintro ((h | ⟨c, r, hb, hp⟩) | ⟨c, r, hb, hp⟩)
      · exact .inl h
      · exact .inr ⟨c, r, by simp [hb], hp⟩
      · exact .inr ⟨c, r, by simp [hb], by rwa [← same c r hb]⟩
    · rintro (h | ⟨c, r, hb, hp⟩)
      · exact .inl (.inl h)
      · cases h1b : b1 c r
        · simp only [h1b, Bool.false_or] at hb
          exact .inr ⟨c, r, hb, by rwa [same c r hb]⟩
        · exact .inl (.inr ⟨c, r, h1b, hp⟩)

theorem Blits.refl (acc : Framebuffer × Bool) : Blits (fun _ _ => false) acc acc := by
  constructor <;> simp

theorem Blits.congr {b1 b2 : Fin 64 → Fin 32 → Bool} {acc acc' : Framebuffer × Bool} (h : Blits b1 acc acc')
    (he : ∀ c r, b1 c r = b2 c r) : Blits b2 acc acc' := by
  have : b1 = b2 := funext fun c => funext fun r => he c r
  exact this ▸ h

/-- One column offset. -/
theorem blits_blitPixel (b : Byte) (c0 row n : Nat) (acc : Framebuffer × Bool) :
    Blits (fun c r => decide (r.val = row ∧ c.val = c0 + n) && b.getLsbD (7 - n)) acc (blitPixel b c0 row n acc) := by
  unfold blitPixel
  split
  · next h =>
    constructor
    · intro c r
      simp only [pixel_flip, Fin.ext_iff, h.1, Bool.and_true]
      by_cases hcr : c.val = c0 + n ∧ r.val = row
      · have hc : c = ⟨c0 + n, h.2.1⟩ := Fin.ext hcr.1
        have hr : r = ⟨row, h.2.2⟩ := Fin.ext hcr.2
        subst hc; subst hr; simp
      · rw [if_neg hcr]
        have : ¬ (r.val = row ∧ c.val = c0 + n) := fun h => hcr ⟨h.2, h.1⟩
        simp [this]
    · simp only [Bool.or_eq_true, h.1, Bool.and_true, decide_eq_true_eq]
      refine or_congr_right ⟨fun hp => ⟨_, _, ⟨rfl, rfl⟩, hp⟩, ?_⟩
      rintro ⟨c, r, ⟨hr, hc⟩, hp⟩
      have hc : c = ⟨c0 + n, h.2.1⟩ := Fin.ext hc
      have hr : r = ⟨row, h.2.2⟩ := Fin.ext hr
      subst hc; subst hr; exact hp
  · next h =>
    refine (Blits.refl acc).congr fun c r => ?_
    by_cases hb : b.getLsbD (7 - n) = true
    · have : ¬ (r.val = row ∧ c.val = c0 + n) := fun ⟨hr, hc⟩ =>
        h ⟨hb, by have := c.isLt; omega, by have := r.isLt; omega⟩
      simp [this]
    · simp [hb]

/-- The first n column offsets of a row. -/
theorem blits_blitRow (b : Byte) (c0 row n : Nat) (acc : Framebuffer × Bool) :
    Blits (rowBit b c0 row n) acc (blitRow b c0 row n acc) := by
  induction n with
  | zero => exact (Blits.refl acc).congr fun c r => by simp [rowBit]
  | succ n ih =>
    refine (ih.trans (blits_blitPixel b c0 row n _) ?_).congr ?_
    · intro c r h
      simp only [Bool.and_eq_true, decide_eq_true_eq] at h
      simp only [rowBit, Bool.and_eq_false_iff, decide_eq_false_iff_not]
      left; omega
    · intro c r
      rw [Bool.eq_iff_iff]
      simp only [rowBit, Bool.or_eq_true, Bool.and_eq_true, decide_eq_true_eq]
      constructor
      · rintro (⟨⟨hr, h1, h2⟩, hb⟩ | ⟨⟨hr, hc⟩, hb⟩)
        · exact ⟨⟨hr, h1, by omega⟩, hb⟩
        · exact ⟨⟨hr, by omega, by omega⟩, by rwa [show c.val - c0 = n by omega]⟩
      · rintro ⟨⟨hr, h1, h2⟩, hb⟩
        by_cases hc : c.val = c0 + n
        · exact .inr ⟨⟨hr, hc⟩, by rwa [show c.val - c0 = n by omega] at hb⟩
        · exact .inl ⟨⟨hr, h1, by omega⟩, hb⟩

/-- The first n rows of a sprite have a 1 bit for the pixel (c, r). -/
def rowsBit (s : State) (c0 r0 n : Nat) (c : Fin 64) (r : Fin 32) : Bool :=
  decide (c0 ≤ c.val ∧ c.val < c0 + 8 ∧ r0 ≤ r.val ∧ r.val < r0 + n) &&
    (s.memRead (s.indexAddr (r.val - r0))).getLsbD (7 - (c.val - c0))

/-- The first n rows of a sprite. -/
theorem blits_blitRows (s : State) (c0 r0 n : Nat) (acc : Framebuffer × Bool) :
    Blits (rowsBit s c0 r0 n) acc (s.blitRows c0 r0 n acc) := by
  induction n with
  | zero => exact (Blits.refl acc).congr fun c r => by simp [rowsBit]
  | succ n ih =>
    refine (ih.trans (blits_blitRow _ c0 (r0 + n) 8 _) ?_).congr ?_
    · intro c r h
      simp only [rowBit, Bool.and_eq_true, decide_eq_true_eq] at h
      simp only [rowsBit, Bool.and_eq_false_iff, decide_eq_false_iff_not]
      left; omega
    · intro c r
      rw [Bool.eq_iff_iff]
      simp only [rowBit, rowsBit, Bool.or_eq_true, Bool.and_eq_true, decide_eq_true_eq]
      constructor
      · rintro (⟨⟨h1, h2, h3, h4⟩, hb⟩ | ⟨⟨hr, h1, h2⟩, hb⟩)
        · exact ⟨⟨h1, h2, h3, by omega⟩, hb⟩
        · exact ⟨⟨h1, h2, by omega, by omega⟩, by rwa [show r.val - r0 = n by omega]⟩
      · rintro ⟨⟨h1, h2, h3, h4⟩, hb⟩
        by_cases hr : r.val = r0 + n
        · exact .inr ⟨⟨hr, h1, h2⟩, by rwa [show r.val - r0 = n by omega] at hb⟩
        · exact .inl ⟨⟨h1, h2, h3, by omega⟩, hb⟩

/-- The whole draw: every visible pixel with a sprite bit is flipped, and VF reports whether one of them was lit. -/
theorem blits_blit (s : State) (x y : RegIdx) (n : Fin 16) : Blits (spriteBit s x y n) (s.fb, false) (s.blit x y n) :=
  blits_blitRows s _ _ n.val _

end Sys2Proof.Machine
end

