-- ==== Sys2Proof/Laws/Frames.lean ====
section
/-!
SUPPORT. The frame of each shared operation, how frames compose, and what a step can be: the lemmas that proofs about
instructions and commands cite instead of unfolding the operations.
-/
namespace Sys2Proof.Machine

/-! ## Frames -/

theorem Same.refl (p : Part) (s : State) : Same p s s := by cases p <;> simp [Same]

theorem Same.trans {p : Part} {s t u : State} (h1 : Same p s t) (h2 : Same p t u) : Same p s u := by
  cases p <;> simp_all [Same]

theorem UnchangedBut.refl (ps : List Part) (s : State) : UnchangedBut ps s s := fun p _ => Same.refl p s

theorem UnchangedBut.mono {ps qs : List Part} {s t : State} (h : UnchangedBut ps s t) (hsub : ps ⊆ qs) :
    UnchangedBut qs s t := fun p hp => h p fun hp' => hp (hsub hp')

theorem UnchangedBut.trans {ps qs : List Part} {s t u : State} (h1 : UnchangedBut ps s t) (h2 : UnchangedBut qs t u) :
    UnchangedBut (ps ++ qs) s u := fun p hp =>
  (h1 p fun h => hp (List.mem_append_left _ h)).trans (h2 p fun h => hp (List.mem_append_right _ h))

variable (s : State)

theorem unchanged_setReg (k : RegIdx) (b : Byte) : UnchangedBut [.v] s (s.setReg k b) := by
  intro p hp; cases p <;> first
    | exact (hp (by decide)).elim
    | exact (rfl : _ = _)
    | exact fun _ => rfl
    | exact fun _ _ => rfl

theorem unchanged_setRegFlag (k : RegIdx) (b : Byte) (f : Bool) : UnchangedBut [.v] s (s.setRegFlag k b f) :=
  ((unchanged_setReg s k b).trans (unchanged_setReg _ vf _)).mono (by simp)

theorem unchanged_setPc (w : Word) : UnchangedBut [.pc] s (s.setPc w) := by
  intro p hp; cases p <;> first
    | exact (hp (by decide)).elim
    | exact (rfl : _ = _)
    | exact fun _ => rfl
    | exact fun _ _ => rfl

theorem unchanged_setI (w : Word) : UnchangedBut [.i] s (s.setI w) := by
  intro p hp; cases p <;> first
    | exact (hp (by decide)).elim
    | exact (rfl : _ = _)
    | exact fun _ => rfl
    | exact fun _ _ => rfl

theorem unchanged_setDt (b : Byte) : UnchangedBut [.dt] s (s.setDt b) := by
  intro p hp; cases p <;> first
    | exact (hp (by decide)).elim
    | exact (rfl : _ = _)
    | exact fun _ => rfl
    | exact fun _ _ => rfl

theorem unchanged_setSt (b : Byte) : UnchangedBut [.st] s (s.setSt b) := by
  intro p hp; cases p <;> first
    | exact (hp (by decide)).elim
    | exact (rfl : _ = _)
    | exact fun _ => rfl
    | exact fun _ _ => rfl

theorem unchanged_holdForKey (x : RegIdx) : UnchangedBut [.pc, .waitx, .mode] s (s.holdForKey x) := by
  intro p hp; cases p <;> first
    | exact (hp (by decide)).elim
    | exact (rfl : _ = _)
    | exact fun _ => rfl
    | exact fun _ _ => rfl

theorem unchanged_resume : UnchangedBut [.pc, .mode] s s.resume := by
  intro p hp; cases p <;> first
    | exact (hp (by decide)).elim
    | exact (rfl : _ = _)
    | exact fun _ => rfl
    | exact fun _ _ => rfl

theorem unchanged_skipIf (b : Bool) : UnchangedBut [.pc] s (s.skipIf b) := by
  cases b
  · exact UnchangedBut.refl _ s
  · exact unchanged_setPc s _

theorem unchanged_raise (e : Err) : UnchangedBut [.err] s (s.raise e) := by
  intro p hp; cases p <;> first
    | exact (hp (by decide)).elim
    | exact (rfl : _ = _)
    | exact fun _ => rfl
    | exact fun _ _ => rfl

theorem unchanged_displayed (fb : Framebuffer) : UnchangedBut [.fb, .redraw, .changed] s (s.displayed fb) := by
  intro p hp; cases p <;> first
    | exact (hp (by decide)).elim
    | exact (rfl : _ = _)
    | exact fun _ => rfl

theorem unchanged_drawn : UnchangedBut [.draws] s s.drawn := by
  intro p hp; cases p <;> first
    | exact (hp (by decide)).elim
    | exact (rfl : _ = _)
    | exact fun _ => rfl
    | exact fun _ _ => rfl

theorem unchanged_beginCommand : UnchangedBut outputs s s.beginCommand := by
  intro p hp; cases p <;> first
    | exact (hp (by decide)).elim
    | exact (rfl : _ = _)
    | exact fun _ => rfl
    | exact fun _ _ => rfl

theorem unchanged_takeCommand : UnchangedBut [.pending] s s.takeCommand := by
  intro p hp; cases p <;> first
    | exact (hp (by decide)).elim
    | exact (rfl : _ = _)
    | exact fun _ => rfl
    | exact fun _ _ => rfl

theorem unchanged_withMem (m : Memory) : UnchangedBut [.mem] s { s with mem := m } := by
  intro p hp; cases p <;> first
    | exact (hp (by decide)).elim
    | exact (rfl : _ = _)
    | exact fun _ => rfl
    | exact fun _ _ => rfl

theorem unchanged_withV (v : Vector Byte 16) : UnchangedBut [.v] s { s with v := v } := by
  intro p hp; cases p <;> first
    | exact (hp (by decide)).elim
    | exact (rfl : _ = _)
    | exact fun _ => rfl
    | exact fun _ _ => rfl

theorem unchanged_memWriteAll (a : Nat) (bs : List Byte) : UnchangedBut [.mem] s (s.memWriteAll a bs) :=
  memWriteAll_eq s a bs ▸ unchanged_withMem s _

theorem unchanged_loadRegs (n : Nat) : UnchangedBut [.v] s (s.loadRegs n) :=
  loadRegs_eq s n ▸ unchanged_withV s _

/-- A successful push writes S and SP; a failed one only reports. -/
theorem unchanged_push (w : Word) : UnchangedBut [.stack, .sp, .err] s (s.push w).2 := by
  unfold State.push
  split
  · intro p hp; cases p <;> first
    | exact (hp (by decide)).elim
    | exact (rfl : _ = _)
    | exact fun _ => rfl
    | exact fun _ _ => rfl
  · exact (unchanged_raise s _).mono (by simp)

/-- A successful pop writes SP; a failed one only reports. -/
theorem unchanged_pop : UnchangedBut [.sp, .err] s s.pop.2 := by
  unfold State.pop
  split
  · intro p hp; cases p <;> first
    | exact (hp (by decide)).elim
    | exact (rfl : _ = _)
    | exact fun _ => rfl
    | exact fun _ _ => rfl
  · exact (unchanged_raise s _).mono (by simp)

theorem regs_setReg (k : RegIdx) (b : Byte) : RegsUnchangedBut (· = k) s (s.setReg k b) := by
  intro j hj; simp [hj]

theorem regs_setRegFlag (k : RegIdx) (b : Byte) (f : Bool) :
    RegsUnchangedBut (fun j => j = k ∨ j = vf) s (s.setRegFlag k b f) := by
  intro j hj
  rw [reg_setRegFlag, if_neg fun h => hj (.inr h), if_neg fun h => hj (.inl h)]

theorem regs_loadRegs (n : Nat) (hn : n ≤ 16) : RegsUnchangedBut (fun j => j.val < n) s (s.loadRegs n) := by
  intro j hj
  rw [reg_loadRegs s n hn, if_neg hj]

/-- Consecutive writes leave every byte outside their cells. -/
theorem bytes_memWriteAll (a : Nat) (bs : List Byte) :
    BytesUnchangedBut ((List.range bs.length).map (a + ·)) s (s.memWriteAll a bs) := by
  intro k hk
  exact memRead_memWriteAll_of_ne s a k bs fun j hj => hk _ (List.mem_map.2 ⟨j, List.mem_range.2 hj, rfl⟩)

/-! ## What a step can be -/

/-- A step performs the next command of the host. -/
theorem step_eq : step s =
    if s.resetDone || s.nextCommand == .reset then runCommand s.nextCommand s.takeCommand else .refused .beforeReset := rfl

/-- Once a RESET has completed, a step runs the next command. -/
theorem step_of_resetDone {s : State} (h : s.resetDone = true) : step s = runCommand s.nextCommand s.takeCommand := by
  simp [step_eq, h]

/-- A next state after a step means the command was run. -/
theorem run_of_step {s t : State} (h : step s = .next t) : runCommand s.nextCommand s.takeCommand = .next t := by
  rw [step_eq] at h
  split at h
  · exact h
  · cases h

/-- A RESET is performed from every state. -/
theorem step_of_reset {s : State} (h : s.nextCommand = .reset) : step s = .next (resetCommand s.takeCommand) := by
  simp [step_eq, h, runCommand]

/-- Every instruction completes, in every state. -/
theorem exec_next (i : Instr) (s : State) : ∃ t, exec i s = .next t := by
  cases i with
  | ret => simp only [exec, execRet]; split <;> exact ⟨_, rfl⟩
  | call nnn => simp only [exec, execCall]; split <;> exact ⟨_, rfl⟩
  | ldVxK x => simp only [exec, execLdVxK]; split <;> exact ⟨_, rfl⟩
  | _ => exact ⟨_, rfl⟩

/-- What an instruction does to the memory list: nothing, or the write of consecutive bytes. -/
theorem exec_mem {i : Instr} {s t : State} (h : exec i s = .next t) :
    t.mem = s.mem ∨ ∃ a bs, t.mem = (s.memWriteAll a bs).mem := by
  cases i with
  | ldBVx x => cases h; exact .inr ⟨_, _, rfl⟩
  | ldIVx x => cases h; exact .inr ⟨_, _, rfl⟩
  | ret =>
    left; simp only [exec, execRet] at h
    rcases sp_zero_or_pos s with h0 | h0
    · rw [pop_of_empty h0] at h; cases h; rfl
    · rw [pop_of_pos h0] at h; cases h; rfl
  | call nnn =>
    left; simp only [exec, execCall] at h
    rcases sp_lt_or_full s with h0 | h0
    · rw [push_of_lt h0] at h; cases h; rfl
    · rw [push_of_full h0] at h; cases h; rfl
  | ldVxK x => left; simp only [exec, execLdVxK] at h; split at h <;> cases h <;> rfl
  | ldVxI x => left; cases h; rw [loadRegs_eq]
  | seImm | sneImm | seReg | sneReg | skp | sknp => left; cases h; rw [skipIf_eq]
  | _ => left; cases h; rfl

/-- Every instruction keeps memory in its canonical form. -/
theorem exec_wf {i : Instr} {s t : State} (h : exec i s = .next t) (hw : s.mem.wf) : t.mem.wf := by
  rcases exec_mem h with h | ⟨a, bs, h⟩ <;> rw [h]
  · exact hw
  · exact memWriteAll_wf hw _ _

/-- A STEP in MODE Ready either runs an instruction or reports an UNKNOWN word. -/
theorem stepReady_cases (s : State) :
    (∃ i, decodeWord s.fetchWord = .ok i ∧ stepReady s = exec i s.fetched) ∨
    (∃ e, decodeWord s.fetchWord = .error e ∧ stepReady s = .next (s.fetched.raise (.unknownOpcode s.fetchWord))) := by
  unfold stepReady
  rw [fetched_opc]
  cases h : decodeWord s.fetchWord with
  | ok i => exact .inl ⟨i, rfl, rfl⟩
  | error e => exact .inr ⟨e, rfl, rfl⟩

/-- A word is not decoded only when it is UNKNOWN, and the error carries the word. -/
theorem decodeWord_error {w : Word} {e : DecodeError} (h : decodeWord w = .error e) : e = .unknown w := by
  unfold decodeWord at h
  dsimp only at h
  split at h
  all_goals first
    | cases h
    | (unfold decodeFamily8 at h; dsimp only at h; split at h <;> cases h; rfl)
    | (unfold decodeFamilyF at h; dsimp only at h; split at h <;> cases h; rfl)
    | (split at h <;> cases h; rfl)
    | (split at h; · cases h
       split at h <;> cases h; rfl)

/-- A STEP once a RESET has completed, in MODE Ready. -/
theorem step_ready {s : State} (h : s.resetDone = true) (hc : s.nextCommand = .step) (hm : s.mode = .ready) :
    step s = stepReady s.takeCommand := by
  rw [step_of_resetDone h, hc]; simp [runCommand, stepCommand, hm]

/-- A STEP once a RESET has completed, in MODE WaitKey. -/
theorem step_waiting {s : State} (h : s.resetDone = true) (hc : s.nextCommand = .step) (hm : s.mode = .waitKey) :
    step s = .next (stepWaiting s.takeCommand.beginCommand) := by
  rw [step_of_resetDone h, hc]; simp [runCommand, stepCommand, hm]

@[simp] theorem fetchWord_takeCommand : s.takeCommand.fetchWord = s.fetchWord := rfl
@[simp] theorem firstKey_takeCommand : s.takeCommand.firstKey = s.firstKey := rfl
@[simp] theorem firstKey_beginCommand : s.beginCommand.firstKey = s.firstKey := rfl
@[simp] theorem firstKey_fetched : s.fetched.firstKey = s.firstKey := rfl

end Sys2Proof.Machine
end

