-- ==== Sys2Proof/Laws/PerInstr.lean ====
section
/-!
SUPPORT. One lemma per instruction: the word the encoder gives it belongs to its own row of spec/opcode_table.json
(30_encoding.md R52, R53), mask and match bits read from the table.
-/
namespace Sys2Proof.Laws.RowAdmits

/-- The opcode table has a row with the instruction's name, and that row admits the instruction's word. -/
def Statement (i : Instr) : Prop := ∃ r ∈ opcodeTable, r.mnemonic = i.mnemonic ∧ r.admits (encode i) = true

theorem cls : Statement .cls :=
  ⟨⟨"CLS", 0x00E0, 0xFFFF⟩, by decide, rfl, by decide⟩

theorem ret : Statement .ret :=
  ⟨⟨"RET", 0x00EE, 0xFFFF⟩, by decide, rfl, by decide⟩

theorem jp (nnn : Addr) : Statement (.jp nnn) :=
  ⟨⟨"JP", 0x1000, 0xF000⟩, by decide, rfl, by simp [OpcodeRow.admits, encode, formatNNN_and_F000]; decide⟩

theorem call (nnn : Addr) : Statement (.call nnn) :=
  ⟨⟨"CALL", 0x2000, 0xF000⟩, by decide, rfl, by simp [OpcodeRow.admits, encode, formatNNN_and_F000]; decide⟩

theorem seImm (x : RegIdx) (kk : Byte) : Statement (.seImm x kk) :=
  ⟨⟨"SE_imm", 0x3000, 0xF000⟩, by decide, rfl, by simp [OpcodeRow.admits, encode, formatXKK_and_F000]; decide⟩

theorem sneImm (x : RegIdx) (kk : Byte) : Statement (.sneImm x kk) :=
  ⟨⟨"SNE_imm", 0x4000, 0xF000⟩, by decide, rfl, by simp [OpcodeRow.admits, encode, formatXKK_and_F000]; decide⟩

theorem seReg (x y : RegIdx) : Statement (.seReg x y) :=
  ⟨⟨"SE_reg", 0x5000, 0xF00F⟩, by decide, rfl, by simp [OpcodeRow.admits, encode, formatXYN_and_F00F]; decide⟩

theorem ldImm (x : RegIdx) (kk : Byte) : Statement (.ldImm x kk) :=
  ⟨⟨"LD_imm", 0x6000, 0xF000⟩, by decide, rfl, by simp [OpcodeRow.admits, encode, formatXKK_and_F000]; decide⟩

theorem addImm (x : RegIdx) (kk : Byte) : Statement (.addImm x kk) :=
  ⟨⟨"ADD_imm", 0x7000, 0xF000⟩, by decide, rfl, by simp [OpcodeRow.admits, encode, formatXKK_and_F000]; decide⟩

theorem ldReg (x y : RegIdx) : Statement (.ldReg x y) :=
  ⟨⟨"LD_reg", 0x8000, 0xF00F⟩, by decide, rfl, by simp [OpcodeRow.admits, encode, formatXYN_and_F00F]; decide⟩

theorem orReg (x y : RegIdx) : Statement (.orReg x y) :=
  ⟨⟨"OR", 0x8001, 0xF00F⟩, by decide, rfl, by simp [OpcodeRow.admits, encode, formatXYN_and_F00F]; decide⟩

theorem andReg (x y : RegIdx) : Statement (.andReg x y) :=
  ⟨⟨"AND", 0x8002, 0xF00F⟩, by decide, rfl, by simp [OpcodeRow.admits, encode, formatXYN_and_F00F]; decide⟩

theorem xorReg (x y : RegIdx) : Statement (.xorReg x y) :=
  ⟨⟨"XOR", 0x8003, 0xF00F⟩, by decide, rfl, by simp [OpcodeRow.admits, encode, formatXYN_and_F00F]; decide⟩

theorem addReg (x y : RegIdx) : Statement (.addReg x y) :=
  ⟨⟨"ADD_reg", 0x8004, 0xF00F⟩, by decide, rfl, by simp [OpcodeRow.admits, encode, formatXYN_and_F00F]; decide⟩

theorem sub (x y : RegIdx) : Statement (.sub x y) :=
  ⟨⟨"SUB", 0x8005, 0xF00F⟩, by decide, rfl, by simp [OpcodeRow.admits, encode, formatXYN_and_F00F]; decide⟩

theorem shr (x y : RegIdx) : Statement (.shr x y) :=
  ⟨⟨"SHR", 0x8006, 0xF00F⟩, by decide, rfl, by simp [OpcodeRow.admits, encode, formatXYN_and_F00F]; decide⟩

theorem subn (x y : RegIdx) : Statement (.subn x y) :=
  ⟨⟨"SUBN", 0x8007, 0xF00F⟩, by decide, rfl, by simp [OpcodeRow.admits, encode, formatXYN_and_F00F]; decide⟩

theorem shl (x y : RegIdx) : Statement (.shl x y) :=
  ⟨⟨"SHL", 0x800E, 0xF00F⟩, by decide, rfl, by simp [OpcodeRow.admits, encode, formatXYN_and_F00F]; decide⟩

theorem sneReg (x y : RegIdx) : Statement (.sneReg x y) :=
  ⟨⟨"SNE_reg", 0x9000, 0xF00F⟩, by decide, rfl, by simp [OpcodeRow.admits, encode, formatXYN_and_F00F]; decide⟩

theorem ldI (nnn : Addr) : Statement (.ldI nnn) :=
  ⟨⟨"LD_I", 0xA000, 0xF000⟩, by decide, rfl, by simp [OpcodeRow.admits, encode, formatNNN_and_F000]; decide⟩

theorem jpV0 (nnn : Addr) : Statement (.jpV0 nnn) :=
  ⟨⟨"JP_V0", 0xB000, 0xF000⟩, by decide, rfl, by simp [OpcodeRow.admits, encode, formatNNN_and_F000]; decide⟩

theorem rnd (x : RegIdx) (kk : Byte) : Statement (.rnd x kk) :=
  ⟨⟨"RND", 0xC000, 0xF000⟩, by decide, rfl, by simp [OpcodeRow.admits, encode, formatXKK_and_F000]; decide⟩

theorem drw (x y : RegIdx) (n : Fin 16) : Statement (.drw x y n) :=
  ⟨⟨"DRW", 0xD000, 0xF000⟩, by decide, rfl, by simp [OpcodeRow.admits, encode, formatXYN_and_F000]; decide⟩

theorem skp (x : RegIdx) : Statement (.skp x) :=
  ⟨⟨"SKP", 0xE09E, 0xF0FF⟩, by decide, rfl, by simp [OpcodeRow.admits, encode, formatXKK_and_F0FF]; decide⟩

theorem sknp (x : RegIdx) : Statement (.sknp x) :=
  ⟨⟨"SKNP", 0xE0A1, 0xF0FF⟩, by decide, rfl, by simp [OpcodeRow.admits, encode, formatXKK_and_F0FF]; decide⟩

theorem ldVxDt (x : RegIdx) : Statement (.ldVxDt x) :=
  ⟨⟨"LD_Vx_DT", 0xF007, 0xF0FF⟩, by decide, rfl, by simp [OpcodeRow.admits, encode, formatXKK_and_F0FF]; decide⟩

theorem ldVxK (x : RegIdx) : Statement (.ldVxK x) :=
  ⟨⟨"LD_Vx_K", 0xF00A, 0xF0FF⟩, by decide, rfl, by simp [OpcodeRow.admits, encode, formatXKK_and_F0FF]; decide⟩

theorem ldDtVx (x : RegIdx) : Statement (.ldDtVx x) :=
  ⟨⟨"LD_DT_Vx", 0xF015, 0xF0FF⟩, by decide, rfl, by simp [OpcodeRow.admits, encode, formatXKK_and_F0FF]; decide⟩

theorem ldStVx (x : RegIdx) : Statement (.ldStVx x) :=
  ⟨⟨"LD_ST_Vx", 0xF018, 0xF0FF⟩, by decide, rfl, by simp [OpcodeRow.admits, encode, formatXKK_and_F0FF]; decide⟩

theorem addIVx (x : RegIdx) : Statement (.addIVx x) :=
  ⟨⟨"ADD_I_Vx", 0xF01E, 0xF0FF⟩, by decide, rfl, by simp [OpcodeRow.admits, encode, formatXKK_and_F0FF]; decide⟩

theorem ldFVx (x : RegIdx) : Statement (.ldFVx x) :=
  ⟨⟨"LD_F_Vx", 0xF029, 0xF0FF⟩, by decide, rfl, by simp [OpcodeRow.admits, encode, formatXKK_and_F0FF]; decide⟩

theorem ldBVx (x : RegIdx) : Statement (.ldBVx x) :=
  ⟨⟨"LD_B_Vx", 0xF033, 0xF0FF⟩, by decide, rfl, by simp [OpcodeRow.admits, encode, formatXKK_and_F0FF]; decide⟩

theorem ldIVx (x : RegIdx) : Statement (.ldIVx x) :=
  ⟨⟨"LD_I_Vx", 0xF055, 0xF0FF⟩, by decide, rfl, by simp [OpcodeRow.admits, encode, formatXKK_and_F0FF]; decide⟩

theorem ldVxI (x : RegIdx) : Statement (.ldVxI x) :=
  ⟨⟨"LD_Vx_I", 0xF065, 0xF0FF⟩, by decide, rfl, by simp [OpcodeRow.admits, encode, formatXKK_and_F0FF]; decide⟩

end Sys2Proof.Laws.RowAdmits
end

