-- ==== Sys2Proof/Tests/Slice0.lean ====
section
/-!
SUPPORT. The model's own tests: what WellFormed refuses, the decoding of words written out from 30_encoding.md R52 and R53,
single steps with the expected values of spec/95_test_vectors.md (the vector's id stands in each docstring), and for every
statement that has hypotheses a state and operands that meet them.
-/
namespace Sys2Proof.Tests
open Sys2Proof Sys2Proof.Machine

/-! ## WellFormed: every check refuses an ill-formed term (R54, R6) -/

/-- One word of each of the six UNKNOWN sets of 30_encoding.md R54. -/
theorem test_ill_formed_words_refused :
    wellFormedWord 0x0123 = false ∧ wellFormedWord 0x5121 = false ∧ wellFormedWord 0x8008 = false ∧
    wellFormedWord 0x9AB1 = false ∧ wellFormedWord 0xE000 = false ∧ wellFormedWord 0xF000 = false := by decide

theorem test_well_formed_words_accepted :
    wellFormedWord 0x00E0 = true ∧ wellFormedWord 0x5120 = true ∧ wellFormedWord 0x800E = true ∧
    wellFormedWord 0xE0A1 = true ∧ wellFormedWord 0xFF65 = true := by decide

theorem test_oversize_image_refused : wellFormedImage (List.replicate 3585 0) = false := by
  rw [wellFormedImage, List.length_replicate]; decide

theorem test_largest_image_accepted : wellFormedImage (List.replicate 3584 0) = true := by
  rw [wellFormedImage, List.length_replicate]; decide

/-! ## Decoding: words written out bit by bit, one for every constructor -/

theorem test_decode_family_0 :
    decodeWord 0b0000000011100000 = .ok .cls ∧ decodeWord 0b0000000011101110 = .ok .ret := by decide

theorem test_decode_families_1_to_4 :
    decodeWord 0b0001001000110100 = .ok (.jp 0x234) ∧ decodeWord 0b0010001000010000 = .ok (.call 0x210) ∧
    decodeWord 0b0011000101000010 = .ok (.seImm 1 0x42) ∧ decodeWord 0b0100000101000011 = .ok (.sneImm 1 0x43) := by decide

theorem test_decode_families_5_6_7_9 :
    decodeWord 0b0101000100100000 = .ok (.seReg 1 2) ∧ decodeWord 0b0110101010011101 = .ok (.ldImm 10 0x9D) ∧
    decodeWord 0b0111000111111111 = .ok (.addImm 1 0xFF) ∧ decodeWord 0b1001000100100000 = .ok (.sneReg 1 2) := by decide

theorem test_decode_family_8 :
    decodeWord 0b1000000100100000 = .ok (.ldReg 1 2) ∧ decodeWord 0b1000000100100001 = .ok (.orReg 1 2) ∧
    decodeWord 0b1000000100100010 = .ok (.andReg 1 2) ∧ decodeWord 0b1000000100100011 = .ok (.xorReg 1 2) ∧
    decodeWord 0b1000000100100100 = .ok (.addReg 1 2) ∧ decodeWord 0b1000000100100101 = .ok (.sub 1 2) ∧
    decodeWord 0b1000000100100110 = .ok (.shr 1 2) ∧ decodeWord 0b1000000100100111 = .ok (.subn 1 2) ∧
    decodeWord 0b1000000100101110 = .ok (.shl 1 2) := by decide

theorem test_decode_families_A_to_E :
    decodeWord 0b1010000100100011 = .ok (.ldI 0x123) ∧ decodeWord 0b1011001100000000 = .ok (.jpV0 0x300) ∧
    decodeWord 0b1100000100001111 = .ok (.rnd 1 0x0F) ∧ decodeWord 0b1101000100100101 = .ok (.drw 1 2 5) ∧
    decodeWord 0b1110001010011110 = .ok (.skp 2) ∧ decodeWord 0b1110001010100001 = .ok (.sknp 2) := by decide

theorem test_decode_family_F :
    decodeWord 0b1111001100000111 = .ok (.ldVxDt 3) ∧ decodeWord 0b1111001100001010 = .ok (.ldVxK 3) ∧
    decodeWord 0b1111001100010101 = .ok (.ldDtVx 3) ∧ decodeWord 0b1111010000011000 = .ok (.ldStVx 4) ∧
    decodeWord 0b1111000100011110 = .ok (.addIVx 1) ∧ decodeWord 0b1111000100101001 = .ok (.ldFVx 1) ∧
    decodeWord 0b1111000100110011 = .ok (.ldBVx 1) ∧ decodeWord 0b1111001001010101 = .ok (.ldIVx 2) ∧
    decodeWord 0b1111001001100101 = .ok (.ldVxI 2) := by decide

/-- The high byte comes first, and the rest is handed back (20_memory.md R35, 30_encoding.md R48). -/
theorem test_decode_bytes :
    decode [0x60, 0x2A, 0xFF] = .ok (.ldImm 0 0x2A, [0xFF]) ∧ decode [0x60] = .error .truncated ∧ decode [] = .error .truncated ∧
    decodeTableWord 16 0x602A = some (.ldImm 0 0x2A) ∧ decodeTableWord 16 0x5121 = none := by decide

/-! ## Helpers: a small state, one STEP -/

/-- Right after RESET, with some registers and some bytes of memory set. -/
def start (rs : List (RegIdx × Byte)) (addr : Nat := 0x300) (bytes : List Byte := []) : State :=
  (rs.foldl (fun s r => s.setReg r.1 r.2) State.reset).memWriteAll addr bytes

/-- The state after one STEP that fetches the word at PC. -/
def after (s : State) (w : Nat) : Option State :=
  match step (s.withFetchWord 16 w) with
  | .next t => some t
  | .fault _ => none
  | .refused _ => none

/-- The state after one command of the host. -/
def perform (s : State) (c : Command) : Option State :=
  match step { s with pending := [c] } with
  | .next t => some t
  | .fault _ => none
  | .refused _ => none

/-- Right after RESET, with some keys pressed. -/
def pressing (ks : List RegIdx) (rs : List (RegIdx × Byte) := []) : State :=
  ks.foldl (fun s k => { s with key := s.key.set k.val true }) (start rs)

/-- Right after RESET, with some pixels lit. -/
def lit (ps : List (Fin 64 × Fin 32)) (s : State) : State :=
  { s with fb := ps.foldl (fun fb p => fb.flip p.1 p.2) s.fb }

/-! ## The STEP cycle -/

/-- S1. -/
theorem test_step_fetches_high_byte_first :
    (after State.reset 0x602A).map (fun t => (t.opc, t.reg 0, t.pc, t.changed, t.err)) =
      some (0x602A, 0x2A, 0x202, false, .none) := by decide

/-- S2: the low byte wraps to 0x000, the first font byte. -/
theorem test_fetch_wraps_at_end_of_memory :
    (perform ((State.reset.memWrite 0xFFF 0x12).setPc 0xFFF) .step).map (fun t => (t.opc, t.pc)) =
      some (0x12F0, 0x2F0) := by decide

/-- S4. -/
theorem test_fetch_address_mod_4096 :
    (perform ((State.reset.memWriteAll 0x0FE [0x61, 0x01]).setPc 0x10FE) .step).map (fun t => (t.reg 1, t.pc)) =
      some (0x01, 0x1100) := by decide

/-- S8. -/
theorem test_unknown_word_only_reports :
    (after State.reset 0x5121).map (fun t => (t.err, t.opc, t.pc)) = some (.unknownOpcode 0x5121, 0x5121, 0x202) := by decide

/-! ## Display -/

/-- D2. -/
theorem test_cls : (after (lit [(5, 5), (63, 31)] State.reset) 0x00E0).map
    (fun t => (t.fb.pixel 5 5, t.fb.pixel 63 31, t.redraw, t.changed)) = some (false, false, true, true) := by decide

/-- D8: a collision, and bit 7 leftmost. -/
theorem test_drw_collision : (after (lit [(0, 0)] { start [] 0x300 [0xC0] with i := 0x300 }) 0xD121).map
    (fun t => (t.fb.pixel 0 0, t.fb.pixel 1 0, t.fb.pixel 2 0, t.reg vf, t.changed)) =
      some (false, true, false, 1, true) := by decide

/-- D7: clipped columns are neither drawn nor tested. -/
theorem test_drw_clips : (after (lit [(0, 0)] { start [(1, 0x3C)] 0x300 [0xFF] with i := 0x300 }) 0xD121).map
    (fun t => (t.fb.pixel 0 0, t.fb.pixel 1 0, t.fb.pixel 60 0, t.fb.pixel 63 0, t.reg vf)) =
      some (true, false, true, true, 0) := by decide

/-! ## Control flow -/

/-- C4. -/
theorem test_ret : (after { State.reset with pc := 0x210, sp := 1, stack := State.reset.stack.set 0 0x206 } 0x00EE).map
    (fun t => (t.pc, t.sp, t.err)) = some (0x206, 0, .none) := by decide

/-- C5. -/
theorem test_ret_underflow : (after State.reset 0x00EE).map (fun t => (t.pc, t.sp, t.err)) =
    some (0x202, 0, .stackUnderflow 0x00EE) := by decide

/-- C1. -/
theorem test_jp : (after State.reset 0x1234).map (·.pc) = some 0x234 := by decide

/-- C7. -/
theorem test_call_sixteenth : (after { State.reset with sp := 15 } 0x2300).map
    (fun t => (t.pc, t.sp, t.stack[15], t.err)) = some (0x300, 16, 0x202, .none) := by decide

/-- C6. -/
theorem test_call_overflow : (after { State.reset with sp := 16 } 0x2300).map
    (fun t => (t.pc, t.sp, t.stack[15], t.err)) = some (0x202, 16, 0, .stackOverflow 0x2300) := by decide

/-- E5, C8. -/
theorem test_skip_immediate :
    (after (start [(1, 0x42)]) 0x3142).map (·.pc) = some 0x204 ∧ (after (start [(1, 0x41)]) 0x3142).map (·.pc) = some 0x202 ∧
    (after (start [(1, 0x42)]) 0x4142).map (·.pc) = some 0x202 ∧
    (after (start [(1, 0x42)]) 0x4143).map (·.pc) = some 0x204 := by decide

/-- C9, C10. -/
theorem test_skip_register :
    (after (start [(1, 7), (2, 7)]) 0x5120).map (·.pc) = some 0x204 ∧
    (after (start [(1, 7), (2, 7)]) 0x9120).map (·.pc) = some 0x202 ∧
    (after (start [(1, 7), (2, 8)]) 0x5120).map (·.pc) = some 0x202 ∧
    (after (start [(1, 7), (2, 8)]) 0x9120).map (·.pc) = some 0x204 := by decide

/-- C12. -/
theorem test_jpV0 : (after (start [(0, 0xFF)]) 0xBFFF).map (·.pc) = some 0x10FE := by decide

/-! ## Loads, arithmetic and flags -/

/-- A1. -/
theorem test_ldImm : (after State.reset 0x6A9D).map (·.reg 10) = some 0x9D := by decide

/-- A2, A4. -/
theorem test_addImm :
    (after (start [(1, 0xFF)]) 0x7101).map (fun t => (t.reg 1, t.reg vf)) = some (0, 0) ∧
    (after (start [(vf, 1)]) 0x7F01).map (·.reg vf) = some 2 := by decide

/-- A5. -/
theorem test_ldReg : (after (start [(2, 0x33)]) 0x8120).map (·.reg 1) = some 0x33 := by decide

/-- A6, A7, A8. -/
theorem test_bitwise :
    (after (start [(1, 0x0F), (2, 0xF0), (vf, 0x55)]) 0x8121).map (fun t => (t.reg 1, t.reg vf)) = some (0xFF, 0x55) ∧
    (after (start [(1, 0x3C), (2, 0x0F), (vf, 0x55)]) 0x8122).map (fun t => (t.reg 1, t.reg vf)) = some (0x0C, 0x55) ∧
    (after (start [(1, 0x3C), (2, 0x0F)]) 0x8123).map (·.reg 1) = some 0x33 := by decide

/-- A10, A12. -/
theorem test_addReg :
    (after (start [(1, 0x80), (2, 0x80)]) 0x8124).map (fun t => (t.reg 1, t.reg vf)) = some (0, 1) ∧
    (after (start [(vf, 0x10), (1, 0x20)]) 0x8F14).map (·.reg vf) = some 0 := by decide

/-- E2, A14. -/
theorem test_sub :
    (after (start [(1, 3), (2, 5)]) 0x8125).map (fun t => (t.reg 1, t.reg vf)) = some (0xFE, 0) ∧
    (after (start [(1, 7), (2, 7)]) 0x8125).map (fun t => (t.reg 1, t.reg vf)) = some (0, 1) := by decide

/-- A17, A18. -/
theorem test_shr :
    (after (start [(1, 0x80), (2, 1)]) 0x8126).map (fun t => (t.reg 1, t.reg vf)) = some (0x40, 0) ∧
    (after (start [(vf, 2)]) 0x8F06).map (·.reg vf) = some 0 := by decide

/-- A19, A22. -/
theorem test_subn :
    (after (start [(1, 3), (2, 5)]) 0x8127).map (fun t => (t.reg 1, t.reg vf)) = some (2, 1) ∧
    (after (start [(vf, 1)]) 0x8F27).map (·.reg vf) = some 0 := by decide

/-- E3, A24. -/
theorem test_shl :
    (after (start [(1, 0x81)]) 0x810E).map (fun t => (t.reg 1, t.reg vf)) = some (2, 1) ∧
    (after (start [(vf, 0x81)]) 0x8F0E).map (·.reg vf) = some 1 := by decide

/-- A25, for whatever byte is drawn. -/
theorem test_rnd : (after (start [(1, 0x55)]) 0xC10F).map (fun t => (t.reg 1, t.draws)) = some (Config.rand 0 &&& 0x0F, 1) := rfl

/-! ## Index register and memory -/

/-- M1. -/
theorem test_ldI : (after State.reset 0xA123).map (·.i) = some 0x123 := by decide

/-- M2, M3. -/
theorem test_addIVx :
    (after { start [(1, 1)] with i := 0x0FFF } 0xF11E).map (fun t => (t.i, t.reg vf)) = some (0x1000, 0) ∧
    (after { start [(1, 2)] with i := 0xFFFF } 0xF11E).map (·.i) = some 1 := by decide

/-- M4. -/
theorem test_ldFVx :
    (after (start [(1, 0x0F)]) 0xF129).map (·.i) = some 0x4B ∧ (after (start [(1, 0x1A)]) 0xF129).map (·.i) = some 0x32 := by decide

/-- E8, M8. -/
theorem test_ldBVx :
    (after { start [(1, 157)] with i := 0x300 } 0xF133).map (fun t => [0x300, 0x301, 0x302].map t.memRead) = some [1, 5, 7] ∧
    (after { start [(1, 157)] with i := 0xFFF } 0xF133).map (fun t => ([0xFFF, 0x000, 0x001].map t.memRead, t.i)) =
      some ([1, 5, 7], 0xFFF) := by decide

/-- M9. -/
theorem test_ldIVx : (after { start [(0, 1), (1, 2), (2, 3), (3, 4)] with i := 0x300 } 0xF255).map
    (fun t => ([0x300, 0x301, 0x302, 0x303].map t.memRead, t.i)) = some ([1, 2, 3, 0], 0x300) := by decide

/-- M14. -/
theorem test_ldVxI : (after { start [(3, 9)] 0xFFE [0xAA, 0xBB] with i := 0xFFE } 0xF265).map
    (fun t => [t.reg 0, t.reg 1, t.reg 2, t.reg 3]) = some [0xAA, 0xBB, 0xF0, 9] := by decide

/-! ## Keys and timers -/

/-- K2, K3. -/
theorem test_skip_on_key :
    (after (pressing [5] [(2, 0x15)]) 0xE29E).map (·.pc) = some 0x204 ∧ (after (start [(2, 5)]) 0xE29E).map (·.pc) = some 0x202 ∧
    (after (start [(2, 5)]) 0xE2A1).map (·.pc) = some 0x204 ∧ (after (pressing [5] [(2, 5)]) 0xE2A1).map (·.pc) = some 0x202 := by
  decide

/-- K5, K11, K12. -/
theorem test_timer_transfers :
    (after { State.reset with dt := 0x3C } 0xF307).map (·.reg 3) = some 0x3C ∧
    (after (start [(3, 0x3C)]) 0xF315).map (·.dt) = some 0x3C ∧
    (after (start [(4, 2)]) 0xF418).map (fun t => (t.st, t.tone)) = some (2, true) := by decide

/-- K7. -/
theorem test_ldVxK_takes_smallest : (after (pressing [12, 3]) 0xF40A).map (fun t => (t.reg 4, t.pc, t.mode)) =
    some (3, 0x202, .ready) := by decide

/-- K8. -/
theorem test_ldVxK_waits : (after State.reset 0xFF0A).map (fun t => (t.pc, t.mode, t.waitx, t.opc)) =
    some (0x200, .waitKey, 15, 0xFF0A) := by decide

/-! ## The other commands -/

/-- A machine that waits at the Fx0A of VF, at 0x200 (K8). -/
def waiting (ks : List RegIdx) : State := { pressing ks with mode := .waitKey, waitx := 15, opc := 0xFF0A }

/-- K8, its second half. -/
theorem test_waiting_step_releases : (perform (waiting [10]) .step).map (fun t => (t.reg vf, t.pc, t.mode, t.keyDown 10)) =
    some (0x0A, 0x202, .ready, true) := by decide

/-- K9, K13. -/
theorem test_tick :
    (perform { waiting [] with dt := 2 } .tick).map (fun t => (t.dt, t.st, t.mode)) = some (1, 0, .waitKey) ∧
    (perform { State.reset with st := 5 } .tick).map (fun t => (t.dt, t.st)) = some (0, 4) := by decide

/-- L1, K10. -/
theorem test_reset : (perform { waiting [10] with sp := 3, i := 9, resetDone := false } .reset) = some State.reset := by decide

/-- L6. -/
theorem test_load : (perform { start [(1, 9)] with sp := 1, pc := 0x204 } (.load [0x60, 0x01])).map
    (fun t => (t.memRead 0x200, t.memRead 0x201, t.pc, t.reg 1, t.sp)) = some (0x60, 0x01, 0x204, 9, 1) := by decide

/-- L8. -/
theorem test_refused_before_reset : step { State.reset with resetDone := false } = .refused .beforeReset := rfl

/-- K14, D14. -/
theorem test_set_key_and_clear_redraw :
    (perform State.reset (.setKey 15 true)).map (·.keyDown 15) = some true ∧
    (perform (pressing [15]) (.setKey 15 false)).map (·.keyDown 15) = some false ∧
    (perform { State.reset with redraw := true } .clearRedraw).map (·.redraw) = some false ∧
    (perform { State.reset with redraw := true } .readRedraw).map (·.reply) = some (.redraw true) := by decide

/-! ## Witnesses: for every statement that has hypotheses, a state and operands that meet them, one for each clause -/

/-- A state whose next transition performs the given commands, in order. -/
def issuing (cs : List Command) (s : State := State.reset) : State := { s with pending := cs }

/-- Right after RESET, with a word at 0x200. -/
def withWord (w : Nat) (s : State := State.reset) : State := s.withFetchWord 16 w

theorem witness_EncodeOfDecode : decodeWord 0xF365 = .ok (.ldVxI 3) := by decide

theorem witness_TableRows_admits :
    ⟨"LD_Vx_I", 0xF065, 0xF0FF⟩ ∈ opcodeTable ∧ OpcodeRow.admits ⟨"LD_Vx_I", 0xF065, 0xF0FF⟩ 0xFF65 = true := by decide

/-- The least and the greatest word of the UNKNOWN sets of families 0x0, 0x8 and 0xF, and two words beside them. -/
theorem witness_UnknownWords :
    decodeWord 0x0000 = .error (.unknown 0x0000) ∧ decodeWord 0x0FFF = .error (.unknown 0x0FFF) ∧
    decodeWord 0x8008 = .error (.unknown 0x8008) ∧ decodeWord 0x8FFF = .error (.unknown 0x8FFF) ∧
    decodeWord 0xF000 = .error (.unknown 0xF000) ∧ decodeWord 0xFFFF = .error (.unknown 0xFFFF) ∧
    decodeWord 0x8FFE = .ok (.shl 15 15) ∧ decodeWord 0xF007 = .ok (.ldVxDt 0) := by decide

theorem witness_ReadyStep_decoded :
    let s := withWord 0x00EE
    s.resetDone = true ∧ s.nextCommand = .step ∧ s.mode = .ready ∧ decodeWord s.fetchWord = .ok .ret := by decide

theorem witness_ReadyStep_unknown :
    let s := withWord 0xFFFF { State.reset with pc := 0xFFFF }
    s.resetDone = true ∧ s.nextCommand = .step ∧ s.mode = .ready ∧ s.memRead 0xFFF = 0xFF ∧
    decodeWord s.fetchWord = .error (.unknown 0xFFFF) := by decide

theorem witness_PlacedWord : decodeWord 0xD125 = .ok (.drw 1 2 5) := by decide

theorem witness_WaitingStep_key :
    let s := waiting [0, 15]
    s.resetDone = true ∧ s.nextCommand = .step ∧ s.mode = .waitKey ∧ SmallestKey s 0 := by
  unfold SmallestKey; decide

theorem witness_WaitingStep_last_key :
    let s := waiting [15]
    s.resetDone = true ∧ s.nextCommand = .step ∧ s.mode = .waitKey ∧ SmallestKey s 15 := by
  unfold SmallestKey; decide

theorem witness_WaitingStep_no_key :
    let s := waiting []
    s.resetDone = true ∧ s.nextCommand = .step ∧ s.mode = .waitKey ∧ NoKey s := by
  unfold NoKey; decide

/-- Both values of `changed` occur. -/
theorem witness_ChangedMarks :
    (perform (withWord 0xD120) .step).map (·.changed) = some true ∧ (perform (withWord 0x1200) .step).map (·.changed) = some false ∧
    (withWord 0xD120).resetDone = true ∧ (withWord 0xD120).nextCommand = .step := by decide

theorem witness_EveryCommandCompletes : (issuing [.tick]).resetDone = true := rfl

theorem witness_OnlyReset_refused :
    let s : State := { State.reset with resetDone := false }
    s.resetDone = false ∧ s.nextCommand ≠ .reset := by decide

theorem witness_OnlyReset_performed :
    let s : State := { State.reset with resetDone := false, pending := [.reset, .step] }
    s.resetDone = false ∧ s.nextCommand = .reset := by decide

theorem witness_EachError_unknown : (perform State.reset .step).map (·.err) = some (.unknownOpcode 0) := by decide
theorem witness_EachError_overflow :
    (perform (withWord 0x2FFF { State.reset with sp := 16 }) .step).map (·.err) = some (.stackOverflow 0x2FFF) := by decide
theorem witness_EachError_underflow : (perform (withWord 0x00EE) .step).map (·.err) = some (.stackUnderflow 0x00EE) := by decide

/-- An image of 3585 bytes meets the hypotheses of the oversize LOAD and, by `loadCommand`, the last clause on causes. -/
theorem witness_OversizeLoad :
    let s := issuing [.load (List.replicate 3585 0xAB)]
    s.resetDone = true ∧ s.nextCommand = .load (List.replicate 3585 0xAB) ∧
    3584 < (List.replicate 3585 (0xAB : Byte)).length :=
  ⟨rfl, rfl, by rw [List.length_replicate]; decide⟩

theorem witness_EachError_romTooLarge :
    ∃ t, step (issuing [.load (List.replicate 3585 0xAB)]) = .next t ∧ t.err = .romTooLarge 3585 := by
  refine ⟨_, rfl, ?_⟩
  have h : wellFormedImage (List.replicate 3585 0xAB) = false := by
    rw [wellFormedImage, List.length_replicate]; decide
  simp only [issuing, loadCommand, h, List.length_replicate]
  rfl

theorem witness_LoadWritesImage_largest :
    let s := issuing [.load (List.replicate 3584 0xAB)]
    s.resetDone = true ∧ s.nextCommand = .load (List.replicate 3584 0xAB) ∧
    (List.replicate 3584 (0xAB : Byte)).length ≤ 3584 :=
  ⟨rfl, rfl, by rw [List.length_replicate]⟩

theorem witness_LoadWritesImage_empty :
    let s := issuing [.load []]
    s.resetDone = true ∧ s.nextCommand = .load [] ∧ ([] : List Byte).length ≤ 3584 := by decide

theorem witness_ModeTable_other_word :
    let s := withWord 0x1200
    s.resetDone = true ∧ s.nextCommand = .step ∧ s.mode = .ready ∧ ∀ x, decodeWord s.fetchWord ≠ .ok (.ldVxK x) := by decide

theorem witness_ModeTable_key_taken :
    let s := withWord 0xF30A (pressing [15])
    s.resetDone = true ∧ s.nextCommand = .step ∧ s.mode = .ready ∧ decodeWord s.fetchWord = .ok (.ldVxK 3) ∧
    SmallestKey s 15 := by
  unfold SmallestKey; decide

theorem witness_ModeTable_wait_begins :
    let s := withWord 0xFF0A
    s.resetDone = true ∧ s.nextCommand = .step ∧ s.mode = .ready ∧ decodeWord s.fetchWord = .ok (.ldVxK 15) ∧ NoKey s := by
  unfold NoKey; decide

theorem witness_ModeTable_other_commands :
    let s := issuing [.reset] (waiting [])
    let t := issuing [.setKey 15 true] (waiting [])
    s.resetDone = true ∧ s.nextCommand = .reset ∧ t.resetDone = true ∧ t.nextCommand ≠ .step ∧ t.nextCommand ≠ .reset := by
  decide

theorem witness_InstructionsWrite : ∃ t, exec (.ldIVx 15) { State.reset with i := 0xFFF } = .next t := ⟨_, rfl⟩

theorem witness_FlagRegister_no_flag :
    (∃ t, exec (.orReg 14 15) State.reset = .next t) ∧ writesFlag (.orReg 14 15) = false ∧ namesVf (.orReg 14 15) = false :=
  ⟨⟨_, rfl⟩, rfl, rfl⟩

/-- Two different states that differ only in a stale entry, before a RET that completes. -/
theorem witness_StaleStack_next :
    let s := withWord 0x00EE { State.reset with sp := 1 }
    let t : State := { s with stack := s.stack.set 1 0x206 }
    EqualButStale s t ∧ t ≠ s ∧ ∃ u, step s = .next u :=
  ⟨⟨by decide, by decide⟩, by decide, _, rfl⟩

theorem witness_StaleStack_refused :
    let s : State := { State.reset with resetDone := false }
    let t : State := { s with stack := s.stack.set 0 0x206 }
    EqualButStale s t ∧ t ≠ s ∧ step s = .refused .beforeReset :=
  ⟨⟨by decide, by decide⟩, by decide, rfl⟩

/-- A waiting machine with a byte of the font overwritten. -/
theorem witness_StepKeepsInvariant :
    let s := { waiting [] with mem := [(0, 0x12)] }
    Inv s ∧ s.mode = .waitKey ∧ ∃ t, step s = .next t :=
  ⟨⟨by decide, by decide, by decide, trivial⟩, rfl, _, rfl⟩

/-- A state that has reported an overflow and a state that has just drawn meet the invariant too. -/
theorem witness_Inv_error_and_changed :
    Inv { State.reset with sp := 16, opc := 0x2300, err := .stackOverflow 0x2300 } ∧
    Inv { State.reset with changed := true, redraw := true } :=
  ⟨⟨by decide, by decide, by decide, rfl, rfl, 0x300, by decide⟩, ⟨by decide, by decide, by decide, trivial⟩⟩

theorem witness_NestedCalls_sixteen :
    State.reset.sp.val + (List.replicate 16 (0x300 : Addr)).length ≤ 16 := by decide

theorem witness_NestedCalls_full : ({ State.reset with sp := 16 } : State).sp.val + ([] : List Addr).length ≤ 16 := by decide

theorem witness_BlockStoreThenLoad : (15 : RegIdx) ≤ 15 ∧ (0 : RegIdx) < 15 := by decide

theorem witness_CanonicalMemories :
    let s := State.reset.memWriteAll 0xFFF [1, 2]
    let t := (State.reset.memWrite 0 2).memWrite 0xFFF 1
    s.mem.wf ∧ t.mem.wf ∧ s.mem ≠ [] ∧ s.mem = t.mem := by decide

theorem witness_Parked :
    let s := withWord 0x1200
    s.resetDone = true ∧ s.nextCommand = .step ∧ Parked s :=
  ⟨rfl, rfl, rfl, 0x200, by decide, by decide⟩

theorem witness_EmptyMachine : 1792 ≤ 1792 := le_refl _

theorem witness_Reset : (issuing [.reset, .step] { waiting [3] with resetDone := false }).nextCommand = .reset := rfl

theorem witness_Tick :
    let s := issuing [.tick] { waiting [] with dt := 255 }
    s.resetDone = true ∧ s.nextCommand = .tick := by decide

theorem witness_SetKey :
    let s := issuing [.setKey 15 true]
    s.resetDone = true ∧ s.nextCommand = .setKey 15 true ∧ (0 : RegIdx) ≠ 15 := by decide

theorem witness_Readers :
    (issuing [.readTone]).resetDone = true ∧ (issuing [.readTone]).nextCommand = .readTone ∧
    (issuing [.readFb]).resetDone = true ∧ (issuing [.readFb]).nextCommand = .readFb := by decide

theorem witness_RedrawAccessors :
    (issuing [.readRedraw]).resetDone = true ∧ (issuing [.readRedraw]).nextCommand = .readRedraw ∧
    (issuing [.clearRedraw]).resetDone = true ∧ (issuing [.clearRedraw]).nextCommand = .clearRedraw := by decide

/-- A draw with a collision and one without. -/
theorem witness_Drw :
    let s := lit [(63, 31)] { start [(1, 0xFF)] 0x300 [0x80] with i := 0x300 }
    (spriteBit s 1 1 1 63 31 = true ∧ s.fb.pixel 63 31 = true) ∧ ∀ r, spriteBit s 1 1 0 63 r = false := by decide

theorem witness_Ret :
    ({ State.reset with sp := 16 } : State).sp.val = (15 : Fin 16).val + 1 ∧
    ({ State.reset with sp := 1 } : State).sp.val = (0 : Fin 16).val + 1 ∧ State.reset.sp = 0 := by decide

theorem witness_Call :
    State.reset.sp.val = (0 : Fin 16).val ∧ ({ State.reset with sp := 15 } : State).sp.val = (15 : Fin 16).val ∧
    (0 : Fin 16) ≠ 15 ∧ ({ State.reset with sp := 16 } : State).sp = 16 := by decide

theorem witness_SkipOnRegister : (1 : BitVec 4) ≠ 0 ∧ (15 : BitVec 4) ≠ 0 := by decide

theorem witness_SkipOnKey :
    (15 : RegIdx).val = ((start [(2, 0xFF)]).reg 2).toNat % 16 ∧ (0 : RegIdx).val = ((start [(2, 0x10)]).reg 2).toNat % 16 := by
  decide

theorem witness_results_outside_vf : (0 : RegIdx) ≠ vf ∧ (14 : RegIdx) ≠ vf := by decide

theorem witness_WaitForKey : SmallestKey (pressing [15, 3]) 3 ∧ NoKey State.reset := by
  unfold SmallestKey NoKey; decide

end Sys2Proof.Tests
end

section
/-!
SUPPORT. Decoder and encoder are inverse to each other, and a word some row of the opcode table admits is the word of an
instruction of that row (30_encoding.md R49 to R54).
-/
namespace Sys2Proof

/-! ## Decoder and encoder -/

/-- The word of an instruction decodes to it. -/
theorem decodeWord_encode (i : Instr) : decodeWord (encode i) = .ok i := by
  cases i with
  | cls | ret => decide
  | _ => simp [encode, decodeWord, decodeFamily8, decodeFamilyF]

section decoded
variable {w : Word} {i : Instr}

theorem encode_of_decodeFamily8 (hf : fieldF w = 0x8#4) (h : decodeFamily8 w = .ok i) : encode i = w := by
  have hw := formatXYN_of_fields w
  rw [hf] at hw
  unfold decodeFamily8 at h
  dsimp only at h
  split at h
  case h_10 => cases h
  all_goals
    next hn => cases h; rw [hn] at hw; exact hw

theorem encode_of_decodeFamilyF (hf : fieldF w = 0xF#4) (h : decodeFamilyF w = .ok i) : encode i = w := by
  have hw := formatXKK_of_fields w
  rw [hf] at hw
  unfold decodeFamilyF at h
  dsimp only at h
  split at h
  case h_10 => cases h
  all_goals
    next hk => cases h; rw [hk] at hw; exact hw

/-- A word is the word of the instruction it decodes to: the decoder is strict (30_encoding.md R54). -/
theorem encode_of_decodeWord (h : decodeWord w = .ok i) : encode i = w := by
  have hnnn := formatNNN_of_fields w
  have hxkk := formatXKK_of_fields w
  have hxyn := formatXYN_of_fields w
  unfold decodeWord at h
  dsimp only at h
  split at h
  -- family 0x0: the words 00E0 and 00EE alone
  case h_1 =>
    split at h
    · next hw => cases h; exact hw.symm
    · split at h
      · next hw => cases h; exact hw.symm
      · cases h
  -- families 0x1, 0x2, 0xA and 0xB: format nnn
  case h_2 | h_3 | h_11 | h_12 => next hf => cases h; rw [hf] at hnnn; exact hnnn
  -- families 0x3, 0x4, 0x6, 0x7 and 0xC: format xkk
  case h_4 | h_5 | h_7 | h_8 | h_13 => next hf => cases h; rw [hf] at hxkk; exact hxkk
  -- families 0x5 and 0x9: format xyn with n = 0
  case h_6 | h_10 =>
    next hf =>
      split at h
      · next hn => cases h; rw [hf, hn] at hxyn; exact hxyn
      · cases h
  case h_9 => next hf => exact encode_of_decodeFamily8 hf h
  case h_14 => next hf => cases h; rw [hf] at hxyn; exact hxyn
  -- family 0xE: kk selects the operation
  case h_15 =>
    next hf =>
      split at h
      · next hk => cases h; rw [hf, hk] at hxkk; exact hxkk
      · split at h
        · next hk => cases h; rw [hf, hk] at hxkk; exact hxkk
        · cases h
  case h_16 =>
    refine encode_of_decodeFamilyF ?_ h
    clear hnnn hxkk hxyn
    simp only [imp_false] at *
    bv_omega

end decoded

/-! ## The rows of the opcode table

What a mask keeps of a word is fixed by the row's bits; the other fields are the operands. -/

section rows
variable {w b : Word} {f : BitVec 4}

theorem eq_of_and_FFFF (h : w &&& 0xFFFF#16 = b) : b = w :=
  h.symm.trans BitVec.and_allOnes

theorem formatNNN_of_and_F000 (h : w &&& 0xF000#16 = b) (hf : fieldF b = f := by decide) :
    formatNNN f (fieldNNN w) = w := by
  have hw := formatNNN_and_F000 (fieldF w) (fieldNNN w)
  rw [formatNNN_of_fields, h] at hw
  rw [← hf, hw, fieldF_formatNNN, formatNNN_of_fields]

theorem formatXKK_of_and_F000 (h : w &&& 0xF000#16 = b) (hf : fieldF b = f := by decide) :
    formatXKK f (fieldX w) (fieldKK w) = w := by
  have hw := formatXKK_and_F000 (fieldF w) (fieldX w) (fieldKK w)
  rw [formatXKK_of_fields, h] at hw
  rw [← hf, hw, fieldF_formatXKK, formatXKK_of_fields]

theorem formatXKK_of_and_F0FF {kk : Byte} (h : w &&& 0xF0FF#16 = b) (hf : fieldF b = f := by decide)
    (hk : fieldKK b = kk := by decide) : formatXKK f (fieldX w) kk = w := by
  have hw := formatXKK_and_F0FF (fieldF w) (fieldX w) (fieldKK w)
  rw [formatXKK_of_fields, h] at hw
  rw [← hf, ← hk, hw, fieldF_formatXKK, fieldKK_formatXKK, formatXKK_of_fields]

theorem formatXYN_of_and_F000 (h : w &&& 0xF000#16 = b) (hf : fieldF b = f := by decide) :
    formatXYN f (fieldX w) (fieldY w) (fieldN w) = w := by
  have hw := formatXYN_and_F000 (fieldF w) (fieldX w) (fieldY w) (fieldN w)
  rw [formatXYN_of_fields, h] at hw
  rw [← hf, hw, fieldF_formatXYN, formatXYN_of_fields]

theorem formatXYN_of_and_F00F {n : BitVec 4} (h : w &&& 0xF00F#16 = b) (hf : fieldF b = f := by decide)
    (hn : fieldN b = n := by decide) : formatXYN f (fieldX w) (fieldY w) n = w := by
  have hw := formatXYN_and_F00F (fieldF w) (fieldX w) (fieldY w) (fieldN w)
  rw [formatXYN_of_fields, h] at hw
  rw [← hf, ← hn, hw, fieldF_formatXYN, fieldN_formatXYN, formatXYN_of_fields]

/-- A word that a row admits is the word of an instruction of that row. -/
theorem exists_encode_of_admits {r : OpcodeRow} (hr : r ∈ opcodeTable) (h : r.admits w = true) :
    ∃ i : Instr, i.mnemonic = r.mnemonic ∧ encode i = w := by
  rw [OpcodeRow.admits, beq_iff_eq] at h
  simp only [opcodeTable, List.cons_append, List.nil_append, List.mem_cons, List.not_mem_nil, or_false] at hr
  rcases hr with rfl | rfl | rfl | rfl | rfl | rfl | rfl | rfl | rfl | rfl | rfl | rfl | rfl | rfl | rfl | rfl | rfl |
    rfl | rfl | rfl | rfl | rfl | rfl | rfl | rfl | rfl | rfl | rfl | rfl | rfl | rfl | rfl | rfl | rfl
  · exact ⟨.cls, rfl, eq_of_and_FFFF h⟩
  · exact ⟨.ret, rfl, eq_of_and_FFFF h⟩
  · exact ⟨.jp _, rfl, formatNNN_of_and_F000 h⟩
  · exact ⟨.call _, rfl, formatNNN_of_and_F000 h⟩
  · exact ⟨.seImm _ _, rfl, formatXKK_of_and_F000 h⟩
  · exact ⟨.sneImm _ _, rfl, formatXKK_of_and_F000 h⟩
  · exact ⟨.seReg _ _, rfl, formatXYN_of_and_F00F h⟩
  · exact ⟨.ldImm _ _, rfl, formatXKK_of_and_F000 h⟩
  · exact ⟨.addImm _ _, rfl, formatXKK_of_and_F000 h⟩
  · exact ⟨.ldReg _ _, rfl, formatXYN_of_and_F00F h⟩
  · exact ⟨.orReg _ _, rfl, formatXYN_of_and_F00F h⟩
  · exact ⟨.andReg _ _, rfl, formatXYN_of_and_F00F h⟩
  · exact ⟨.xorReg _ _, rfl, formatXYN_of_and_F00F h⟩
  · exact ⟨.addReg _ _, rfl, formatXYN_of_and_F00F h⟩
  · exact ⟨.sub _ _, rfl, formatXYN_of_and_F00F h⟩
  · exact ⟨.shr _ _, rfl, formatXYN_of_and_F00F h⟩
  · exact ⟨.subn _ _, rfl, formatXYN_of_and_F00F h⟩
  · exact ⟨.shl _ _, rfl, formatXYN_of_and_F00F h⟩
  · exact ⟨.sneReg _ _, rfl, formatXYN_of_and_F00F h⟩
  · exact ⟨.ldI _, rfl, formatNNN_of_and_F000 h⟩
  · exact ⟨.jpV0 _, rfl, formatNNN_of_and_F000 h⟩
  · exact ⟨.rnd _ _, rfl, formatXKK_of_and_F000 h⟩
  · exact ⟨.drw _ _ _, rfl, formatXYN_of_and_F000 h⟩
  · exact ⟨.skp _, rfl, formatXKK_of_and_F0FF h⟩
  · exact ⟨.sknp _, rfl, formatXKK_of_and_F0FF h⟩
  · exact ⟨.ldVxDt _, rfl, formatXKK_of_and_F0FF h⟩
  · exact ⟨.ldVxK _, rfl, formatXKK_of_and_F0FF h⟩
  · exact ⟨.ldDtVx _, rfl, formatXKK_of_and_F0FF h⟩
  · exact ⟨.ldStVx _, rfl, formatXKK_of_and_F0FF h⟩
  · exact ⟨.addIVx _, rfl, formatXKK_of_and_F0FF h⟩
  · exact ⟨.ldFVx _, rfl, formatXKK_of_and_F0FF h⟩
  · exact ⟨.ldBVx _, rfl, formatXKK_of_and_F0FF h⟩
  · exact ⟨.ldIVx _, rfl, formatXKK_of_and_F0FF h⟩
  · exact ⟨.ldVxI _, rfl, formatXKK_of_and_F0FF h⟩

/-- A word the decoder refuses belongs to no row of the opcode table. -/
theorem wellFormedWord_of_decodeWord_error {e : DecodeError} (h : decodeWord w = .error e) :
    wellFormedWord w = false := by
  rw [wellFormedWord, List.any_eq_false]
  intro r hr hw
  obtain ⟨i, -, rfl⟩ := exists_encode_of_admits hr hw
  rw [decodeWord_encode] at h
  cases h

end rows

end Sys2Proof
end

section
/-!
SUPPORT. The instructions and commands with two outcomes, an equation for each, and the frame of every instruction: the
parts, the registers and the bytes it may write (10_state.md R31), VF among them (R15).
-/
namespace Sys2Proof.Machine

/-! ## The instructions with two outcomes -/

/-- 00EE on an empty stack (42_control_flow.md R76). -/
theorem exec_ret_of_empty {s : State} (h : s.sp = 0) : exec .ret s = .next (s.raise (.stackUnderflow s.opc)) := by
  simp [exec, execRet, pop_of_empty h]

/-- 00EE on a stack that holds an entry (42_control_flow.md R77). -/
theorem exec_ret_of_pos {s : State} (h : 0 < s.sp.val) :
    exec .ret s = .next (State.setPc { s with sp := ⟨s.sp.val - 1, by omega⟩ } s.stack[s.sp.val - 1]) := by
  simp [exec, execRet, pop_of_pos h]

/-- 2nnn on a full stack (42_control_flow.md R75). -/
theorem exec_call_of_full {s : State} (h : s.sp = 16) (nnn : Addr) :
    exec (.call nnn) s = .next (s.raise (.stackOverflow s.opc)) := by
  simp [exec, execCall, push_of_full h]

/-- 2nnn on a stack with room (42_control_flow.md R79). -/
theorem exec_call_of_lt {s : State} (h : s.sp.val < 16) (nnn : Addr) :
    exec (.call nnn) s = .next (State.setPc
      { s with stack := s.stack.set s.sp.val s.pc, sp := ⟨s.sp.val + 1, by omega⟩ } (zext16 nnn)) := by
  simp [exec, execCall, push_of_lt h]

/-- Fx0A with a key pressed (45_keys_timers.md R109). -/
theorem exec_ldVxK_of_some {s : State} {k : RegIdx} (h : s.firstKey = some k) (x : RegIdx) :
    exec (.ldVxK x) s = .next (s.setReg x (keyByte k)) := by
  simp [exec, execLdVxK, h]

/-- Fx0A with no key pressed (45_keys_timers.md R109). -/
theorem exec_ldVxK_of_none {s : State} (h : s.firstKey = none) (x : RegIdx) :
    exec (.ldVxK x) s = .next (s.holdForKey x) := by
  simp [exec, execLdVxK, h]

/-! ## The commands with two outcomes -/

/-- A poll with a key pressed (40_step.md R61). -/
theorem stepWaiting_of_some {s : State} {k : RegIdx} (h : s.firstKey = some k) :
    stepWaiting s = (s.setReg s.waitx (keyByte k)).resume := by
  simp [stepWaiting, h]

/-- A poll with no key pressed (40_step.md R61). -/
theorem stepWaiting_of_none {s : State} (h : s.firstKey = none) : stepWaiting s = s := by
  simp [stepWaiting, h]

/-- LOAD of an image that fits (70_reset_and_hazards.md R131). -/
theorem loadCommand_of_wellFormed {bytes : List Byte} (h : wellFormedImage bytes = true) (s : State) :
    loadCommand bytes s = s.beginCommand.memWriteAll Config.progBase bytes := by
  simp [loadCommand, h]

/-- LOAD of an image that is too long (70_reset_and_hazards.md R132). -/
theorem loadCommand_of_illFormed {bytes : List Byte} (h : wellFormedImage bytes = false) (s : State) :
    loadCommand bytes s = s.beginCommand.raise (.romTooLarge bytes.length) := by
  simp [loadCommand, h]

/-- A STEP that fetches the word of an instruction (40_step.md R60). -/
theorem stepReady_of_ok {s : State} {i : Instr} (h : decodeWord s.fetchWord = .ok i) :
    stepReady s = exec i s.fetched := by
  simp [stepReady, h]

/-- A STEP that fetches an UNKNOWN word (40_step.md R66). -/
theorem stepReady_of_error {s : State} {e : DecodeError} (h : decodeWord s.fetchWord = .error e) :
    stepReady s = .next (s.fetched.raise (.unknownOpcode s.fetchWord)) := by
  simp [stepReady, h]

/-- A STEP by its MODE: fetch and run, or poll (40_step.md R60, R61). -/
theorem stepCommand_of_ready {s : State} (h : s.mode = .ready) : stepCommand s = stepReady s := by
  simp [stepCommand, h]

theorem stepCommand_of_waiting {s : State} (h : s.mode = .waitKey) :
    stepCommand s = .next (stepWaiting s.beginCommand) := by
  simp [stepCommand, h]

/-- Once a RESET has completed, every command completes (60_exceptions.md R114). -/
theorem runCommand_next (c : Command) (s : State) : ∃ t, runCommand c s = .next t := by
  cases c with
  | step =>
    cases hm : s.mode with
    | waitKey => exact ⟨_, stepCommand_of_waiting hm⟩
    | ready =>
      rw [runCommand, stepCommand_of_ready hm]
      rcases stepReady_cases s with ⟨i, -, h⟩ | ⟨e, -, h⟩
      · exact h ▸ exec_next i s.fetched
      · exact ⟨_, h⟩
  | _ => exact ⟨_, rfl⟩

/-- A poll writes at most V[WAITX], PC and MODE. -/
theorem unchanged_stepWaiting (s : State) : UnchangedBut [.v, .pc, .mode] s (stepWaiting s) := by
  cases hk : s.firstKey with
  | none => rw [stepWaiting_of_none hk]; exact UnchangedBut.refl _ s
  | some k => rw [stepWaiting_of_some hk]; exact (unchanged_setReg s _ _).trans (unchanged_resume _)

/-- LOAD writes memory and the outputs at most. -/
theorem unchanged_loadCommand (bytes : List Byte) (s : State) :
    UnchangedBut (.mem :: outputs) s (loadCommand bytes s) := by
  cases hb : wellFormedImage bytes with
  | true =>
    rw [loadCommand_of_wellFormed hb]
    exact ((unchanged_beginCommand s).trans (unchanged_memWriteAll _ _ _)).mono (by simp [outputs])
  | false =>
    rw [loadCommand_of_illFormed hb]
    exact ((unchanged_beginCommand s).trans (unchanged_raise _ _)).mono (by simp [outputs])

/-! ## The frame of every instruction -/

/-- Every instruction writes only the parts its row of the access table names. -/
theorem exec_unchangedBut_written {i : Instr} {s t : State} (h : exec i s = .next t) :
    UnchangedBut (written i) s t := by
  cases i with
  | cls => cases h; exact unchanged_displayed s _
  | ret =>
    have hpop := unchanged_pop s
    rcases sp_zero_or_pos s with h0 | h0
    · rw [exec_ret_of_empty h0] at h; cases h
      rw [pop_of_empty h0] at hpop
      exact hpop.mono (by simp [written])
    · rw [exec_ret_of_pos h0] at h; cases h
      rw [pop_of_pos h0] at hpop
      exact (hpop.trans (unchanged_setPc _ _)).mono (by simp [written])
  | call nnn =>
    have hpush := unchanged_push s s.pc
    rcases sp_lt_or_full s with h0 | h0
    · rw [exec_call_of_lt h0] at h; cases h
      rw [push_of_lt h0] at hpush
      exact (hpush.trans (unchanged_setPc _ _)).mono (by simp [written])
    · rw [exec_call_of_full h0] at h; cases h
      rw [push_of_full h0] at hpush
      exact hpush.mono (by simp [written])
  | jp | jpV0 => cases h; exact unchanged_setPc s _
  | seImm | sneImm | seReg | sneReg | skp | sknp => cases h; exact unchanged_skipIf s _
  | ldImm | addImm | ldReg | orReg | andReg | xorReg | ldVxDt => cases h; exact unchanged_setReg s _ _
  | addReg | sub | shr | subn | shl => cases h; exact unchanged_setRegFlag s _ _ _
  | rnd => cases h; exact ((unchanged_drawn s).trans (unchanged_setReg _ _ _)).mono (by simp [written])
  | drw => cases h; exact ((unchanged_displayed s _).trans (unchanged_setReg _ _ _)).mono (by simp [written])
  | ldVxI => cases h; exact unchanged_loadRegs s _
  | ldVxK x =>
    cases hk : s.firstKey with
    | none => rw [exec_ldVxK_of_none hk] at h; cases h; exact (unchanged_holdForKey s x).mono (by simp [written])
    | some k => rw [exec_ldVxK_of_some hk] at h; cases h; exact (unchanged_setReg s x _).mono (by simp [written])
  | ldDtVx => cases h; exact unchanged_setDt s _
  | ldStVx => cases h; exact unchanged_setSt s _
  | ldI | addIVx | ldFVx => cases h; exact unchanged_setI s _
  | ldBVx | ldIVx => cases h; exact unchanged_memWriteAll s _ _

/-- Every instruction writes only its own destination registers. -/
theorem exec_regsUnchangedBut_destReg {i : Instr} {s t : State} (h : exec i s = .next t) :
    RegsUnchangedBut (destReg i) s t := by
  cases i with
  | ldImm | addImm | ldReg | orReg | andReg | xorReg | ldVxDt => cases h; exact regs_setReg s _ _
  | addReg | sub | shr | subn | shl => cases h; exact regs_setRegFlag s _ _ _
  | rnd => cases h; exact regs_setReg s.drawn _ _
  | drw => cases h; exact regs_setReg (s.displayed _) _ _
  | ldVxK x =>
    cases hk : s.firstKey with
    | none => rw [exec_ldVxK_of_none hk] at h; cases h; exact fun j _ => reg_holdForKey s x j
    | some k => rw [exec_ldVxK_of_some hk] at h; cases h; exact regs_setReg s x _
  | ldVxI x =>
    cases h
    exact fun j hj => regs_loadRegs s _ x.isLt j fun hlt => hj (Nat.lt_succ_iff.1 hlt)
  | _ => exact fun k _ => exec_unchangedBut_written h .v (by simp [written]) k

/-- Every instruction writes only the bytes it stores to. -/
theorem exec_bytesUnchangedBut_storeAddrs {i : Instr} {s t : State} (h : exec i s = .next t) :
    BytesUnchangedBut (storeAddrs i s) s t := by
  cases i with
  | ldBVx x => cases h; exact bytes_memWriteAll s _ (bcdDigits (s.reg x))
  | ldIVx x =>
    cases h
    have hb := bytes_memWriteAll s (s.indexAddr 0) (s.firstRegs (x.val + 1))
    rwa [length_firstRegs s _ x.isLt] at hb
  | _ => exact fun a _ => exec_unchangedBut_written h .mem (by simp [written]) a

/-- Settles O14, from the frames of the shared operations. -/
theorem instructionsWriteOnlyTheirRow : Obligations.InstructionsWriteOnlyTheirRow := fun _ _ _ h =>
  ⟨exec_unchangedBut_written h, exec_regsUnchangedBut_destReg h, exec_bytesUnchangedBut_storeAddrs h⟩

/-! ## The flag register (10_state.md R15) -/

@[simp] theorem toNat_flagByte (b : Bool) : (flagByte b).toNat = b.toNat := by cases b <;> rfl

/-- A flag is 1 exactly when its condition holds. -/
@[simp] theorem flagByte_eq_one {b : Bool} : flagByte b = 1 ↔ b = true := by cases b <;> decide

theorem flagByte_eq_zero_or_one (b : Bool) : flagByte b = 0 ∨ flagByte b = 1 := by cases b <;> decide

/-- A decided condition as a flag. -/
theorem flagByte_decide (p : Prop) [Decidable p] : flagByte (decide p) = if p then 1 else 0 := by
  by_cases h : p <;> simp [flagByte, h]

/-- VF after an instruction that writes it as a flag, whatever x is (D10). -/
@[simp] theorem reg_vf_setRegFlag (s : State) (x : RegIdx) (b : Byte) (f : Bool) :
    (s.setRegFlag x b f).reg vf = flagByte f := by
  simp [reg_setRegFlag]

/-- The bit a right shift shifts out is the parity (43_alu.md R95). -/
theorem toNat_shiftedOutRight (a : Byte) : (shiftedOutRight a).toNat = a.toNat % 2 := by
  rw [shiftedOutRight, BitVec.getLsbD, Nat.toNat_testBit]; simp

/-- The bit a left shift shifts out is the top one (43_alu.md R97). -/
theorem toNat_shiftedOutLeft (a : Byte) : (shiftedOutLeft a).toNat = a.toNat / 128 := by
  rw [shiftedOutLeft, BitVec.getLsbD, Nat.toNat_testBit]; omega

/-- Dxyn collides exactly when it turns a pixel from 1 to 0 (41_display.md R72). -/
theorem blit_hit_iff_erases (s : State) (x y : RegIdx) (n : Fin 16) :
    (s.blit x y n).2 = true ↔ ∃ c r, s.fb.pixel c r = true ∧ (s.blit x y n).1.pixel c r = false := by
  have hb := blits_blit s x y n
  rw [hb.hit]
  simp only [hb.pixel, Bool.false_eq_true, false_or]
  refine exists_congr fun c => exists_congr fun r => ?_
  cases spriteBit s x y n c r <;> cases s.fb.pixel c r <;> decide

/-- An instruction that neither writes a flag nor names VF does not have VF as a destination. -/
theorem not_destReg_vf {i : Instr} (hf : writesFlag i = false) (hn : namesVf i = false) : ¬ destReg i vf := by
  cases i with
  | ldImm | addImm | ldReg | orReg | andReg | xorReg | rnd | ldVxDt | ldVxK =>
    exact fun hd => by simp [namesVf, ← show vf = _ from hd] at hn
  | ldVxI x => exact fun hd => by simp [namesVf, le_antisymm (Fin.le_last x) hd] at hn
  | addReg | sub | shr | subn | shl | drw => cases hf
  | _ => exact id

/-- Settles O15: the six flag writers write VF last, and the frame of registers gives all others. -/
theorem flagRegisterRule : Obligations.FlagRegisterRule := by
  refine ⟨fun x y s => ⟨_, rfl, ?_⟩, fun x y s => ⟨_, rfl, ?_⟩, fun x y s => ⟨_, rfl, ?_⟩, fun x y s => ⟨_, rfl, ?_⟩,
    fun x y s => ⟨_, rfl, ?_⟩, fun x y n s => ⟨_, rfl, ?_⟩, fun i s t h hf hn => ?_, rfl⟩
  · rw [reg_vf_setRegFlag, carryOut, flagByte_decide]
  · rw [reg_vf_setRegFlag, notBorrow, flagByte_decide]
  · rw [reg_vf_setRegFlag, toNat_flagByte, toNat_shiftedOutRight]
  · rw [reg_vf_setRegFlag, notBorrow, flagByte_decide]
  · rw [reg_vf_setRegFlag, toNat_flagByte, toNat_shiftedOutLeft]
  · rw [reg_setReg, if_pos rfl]
    exact ⟨flagByte_eq_zero_or_one _, flagByte_eq_one.trans (blit_hit_iff_erases s x y n)⟩
  · exact exec_regsUnchangedBut_destReg h vf (not_destReg_vf hf hn)

end Sys2Proof.Machine
end

section
/-!
SUPPORT. Another stack put into a state: every operation but push, pop and RESET neither reads it nor changes it, so stack
entries at index SP or above have no effect (10_state.md R18).
-/
namespace Sys2Proof.Machine

/-- The state with another content of the stack and nothing else changed. -/
def State.withStack (s : State) (σ : Vector Word 16) : State := { s with stack := σ }

variable {s t : State} {σ : Vector Word 16}

/-! ## Operations that do not read the stack -/

@[simp] theorem withStack_stack (s : State) (σ : Vector Word 16) : (s.withStack σ).stack = σ := rfl
@[simp] theorem withStack_sp (s : State) (σ : Vector Word 16) : (s.withStack σ).sp = s.sp := rfl

theorem memWriteAll_withStack (s : State) (σ : Vector Word 16) (a : Nat) (bs : List Byte) :
    (s.withStack σ).memWriteAll a bs = (s.memWriteAll a bs).withStack σ := by
  induction bs generalizing s a with
  | nil => rfl
  | cons b bs ih => exact ih (s.memWrite a b) (a + 1)

theorem loadRegs_withStack (s : State) (σ : Vector Word 16) (n : Nat) :
    (s.withStack σ).loadRegs n = (s.loadRegs n).withStack σ := by
  induction n with
  | zero => rfl
  | succ n ih => rw [State.loadRegs, ih]; rfl

theorem skipIf_withStack (s : State) (σ : Vector Word 16) (b : Bool) :
    (s.withStack σ).skipIf b = (s.skipIf b).withStack σ := by
  cases b <;> rfl

theorem blitRows_withStack (s : State) (σ : Vector Word 16) (c0 r0 n : Nat) (acc : Framebuffer × Bool) :
    (s.withStack σ).blitRows c0 r0 n acc = s.blitRows c0 r0 n acc := by
  induction n with
  | zero => rfl
  | succ n ih => rw [State.blitRows, ih]; rfl

theorem blit_withStack (s : State) (σ : Vector Word 16) (x y : RegIdx) (n : Fin 16) :
    (s.withStack σ).blit x y n = s.blit x y n :=
  blitRows_withStack s σ _ _ n.val _

/-- Only an instruction that writes SP writes the stack (42_control_flow.md R75). -/
theorem stack_not_mem_written {i : Instr} (hi : .sp ∉ written i) : .stack ∉ written i := by
  cases i with
  | call => exact absurd (by simp [written]) hi
  | _ => simp [written]

/-- An instruction that does not write SP does not read the stack either. -/
theorem exec_withStack {i : Instr} (hi : .sp ∉ written i) (h : exec i s = .next t) (σ : Vector Word 16) :
    exec i (s.withStack σ) = .next (t.withStack σ) := by
  cases i with
  | ret | call => exact absurd (by simp [written]) hi
  | seImm | sneImm | seReg | sneReg | skp | sknp => cases h; exact congrArg _ (skipIf_withStack s σ _)
  | drw x y n =>
    cases h
    have hb := blit_withStack s σ x y n
    simp only [exec, execDrw, hb]; rfl
  | ldBVx | ldIVx => cases h; exact congrArg _ (memWriteAll_withStack s σ _ _)
  | ldVxI => cases h; exact congrArg _ (loadRegs_withStack s σ _)
  | ldVxK x =>
    cases hk : s.firstKey with
    | none => rw [exec_ldVxK_of_none hk] at h; cases h; exact exec_ldVxK_of_none (s := s.withStack σ) hk x
    | some k => rw [exec_ldVxK_of_some hk] at h; cases h; exact exec_ldVxK_of_some (s := s.withStack σ) hk x
  | _ => cases h; rfl

theorem loadCommand_withStack (s : State) (σ : Vector Word 16) (bytes : List Byte) :
    loadCommand bytes (s.withStack σ) = (loadCommand bytes s).withStack σ := by
  cases hb : wellFormedImage bytes with
  | true =>
    rw [loadCommand_of_wellFormed hb, loadCommand_of_wellFormed hb]
    exact memWriteAll_withStack s.beginCommand σ _ _
  | false => rw [loadCommand_of_illFormed hb, loadCommand_of_illFormed hb]; rfl

theorem stepWaiting_withStack (s : State) (σ : Vector Word 16) :
    stepWaiting (s.withStack σ) = (stepWaiting s).withStack σ := by
  cases hk : s.firstKey with
  | none => rw [stepWaiting_of_none hk, stepWaiting_of_none (s := s.withStack σ) hk]
  | some k => rw [stepWaiting_of_some hk, stepWaiting_of_some (s := s.withStack σ) hk]; rfl

/-! ## States equal but for stale entries -/

theorem EqualButStale.refl (s : State) : EqualButStale s s := ⟨rfl, fun _ _ => rfl⟩

/-- States equal but for stale entries are one state with two stacks that agree below SP. -/
theorem equalButStale_iff : EqualButStale s t ↔
    ∃ σ, t = s.withStack σ ∧ ∀ k : Fin 16, k.val < s.sp.val → σ[k.val] = s.stack[k.val] := by
  constructor
  · rintro ⟨ht, hk⟩
    exact ⟨t.stack, ht, hk⟩
  · rintro ⟨σ, rfl, hk⟩
    exact ⟨rfl, hk⟩

/-- What keeps the stack and SP and does not depend on the stale entries keeps two states equal but for them. -/
theorem EqualButStale.of_same_stack {s' : State} (h : EqualButStale s (s.withStack σ)) (hstack : s'.stack = s.stack)
    (hsp : s'.sp = s.sp) : EqualButStale s' (s'.withStack σ) := by
  obtain ⟨-, hk⟩ := h
  refine ⟨rfl, fun k hlt => ?_⟩
  rw [hsp] at hlt
  rw [hstack]
  exact hk k hlt

/-- The same for what a frame says leaves the stack and SP alone. -/
theorem EqualButStale.of_unchanged {s' : State} {ps : List Part} (h : EqualButStale s (s.withStack σ))
    (hframe : UnchangedBut ps s s') (hstack : .stack ∉ ps) (hsp : .sp ∉ ps) :
    EqualButStale s' (s'.withStack σ) :=
  h.of_same_stack (Vector.ext fun k hk => hframe .stack hstack ⟨k, hk⟩) (hframe .sp hsp)

/-- Every instruction runs alike on two states equal but for stale entries: only 2nnn and 00EE touch the stack, the first
overwriting the stale entry it makes valid and the second reading a valid one. -/
theorem exec_equalButStale {i : Instr} {s' : State} (hst : EqualButStale s t) (h : exec i s = .next s') :
    ∃ t', exec i t = .next t' ∧ EqualButStale s' t' := by
  obtain ⟨σ, rfl, hk⟩ := equalButStale_iff.1 hst
  by_cases hi : .sp ∈ written i
  · cases i with
    | ret =>
      rcases sp_zero_or_pos s with h0 | h0
      · rw [exec_ret_of_empty h0] at h; cases h
        exact ⟨_, exec_ret_of_empty (s := s.withStack σ) h0, hst.of_same_stack rfl rfl⟩
      · rw [exec_ret_of_pos h0] at h; cases h
        have htop : σ[s.sp.val - 1] = s.stack[s.sp.val - 1] := hk ⟨s.sp.val - 1, by omega⟩ (by simp only; omega)
        refine ⟨_, exec_ret_of_pos (s := s.withStack σ) h0, equalButStale_iff.2 ⟨σ, ?_, fun k hlt => hk k ?_⟩⟩
        · simp only [withStack_stack, withStack_sp, htop]; rfl
        · simp only [setPc_sp] at hlt; omega
    | call nnn =>
      rcases sp_lt_or_full s with h0 | h0
      · rw [exec_call_of_lt h0] at h; cases h
        refine ⟨_, exec_call_of_lt (s := s.withStack σ) h0 nnn,
          equalButStale_iff.2 ⟨σ.set s.sp.val s.pc, rfl, fun k hlt => ?_⟩⟩
        simp only [setPc_sp, setPc_stack, Vector.getElem_set] at hlt ⊢
        by_cases hkk : s.sp.val = k.val
        · rw [if_pos hkk, if_pos hkk]
        · rw [if_neg hkk, if_neg hkk]; exact hk k (by omega)
      · rw [exec_call_of_full h0] at h; cases h
        exact ⟨_, exec_call_of_full (s := s.withStack σ) h0 nnn, hst.of_same_stack rfl rfl⟩
    | _ => simp [written] at hi
  · exact ⟨_, exec_withStack hi h σ, hst.of_unchanged (exec_unchangedBut_written h) (stack_not_mem_written hi) hi⟩

/-- A STEP in MODE Ready runs alike on two states equal but for stale entries, which fetch the same word. -/
theorem stepReady_equalButStale {s' : State} (hst : EqualButStale s t) (h : stepReady s = .next s') :
    ∃ t', stepReady t = .next t' ∧ EqualButStale s' t' := by
  obtain ⟨σ, rfl, -⟩ := equalButStale_iff.1 hst
  have hfetched : EqualButStale s.fetched (s.withStack σ).fetched := hst.of_same_stack rfl rfl
  cases hd : decodeWord s.fetchWord with
  | ok i =>
    rw [stepReady_of_ok hd] at h
    rw [stepReady_of_ok (s := s.withStack σ) hd]
    exact exec_equalButStale hfetched h
  | error e =>
    rw [stepReady_of_error hd] at h; cases h
    exact ⟨_, stepReady_of_error (s := s.withStack σ) hd, hst.of_same_stack rfl rfl⟩

/-- Every command runs alike on two states equal but for stale entries. -/
theorem runCommand_equalButStale {c : Command} {s' : State} (hst : EqualButStale s t) (h : runCommand c s = .next s') :
    ∃ t', runCommand c t = .next t' ∧ EqualButStale s' t' := by
  obtain ⟨σ, rfl, -⟩ := equalButStale_iff.1 hst
  cases c with
  | reset => cases h; exact ⟨_, rfl, EqualButStale.refl _⟩
  | load bytes =>
    cases h
    exact ⟨_, rfl, loadCommand_withStack s σ bytes ▸
      hst.of_unchanged (unchanged_loadCommand bytes s) (by simp) (by simp)⟩
  | step =>
    cases hm : s.mode with
    | ready =>
      rw [runCommand, stepCommand_of_ready hm] at h
      rw [runCommand, stepCommand_of_ready (s := s.withStack σ) hm]
      exact stepReady_equalButStale hst h
    | waitKey =>
      rw [runCommand, stepCommand_of_waiting hm] at h; cases h
      exact ⟨_, stepCommand_of_waiting (s := s.withStack σ) hm, stepWaiting_withStack s.beginCommand σ ▸
        EqualButStale.of_unchanged (s := s.beginCommand) (hst.of_same_stack rfl rfl)
          (unchanged_stepWaiting _) (by simp) (by simp)⟩
  | _ => cases h; exact ⟨_, rfl, hst.of_same_stack rfl rfl⟩

/-- Whether a command is performed, and which one, does not depend on the stack. -/
theorem step_withStack (s : State) (σ : Vector Word 16) : step (s.withStack σ) =
    if s.resetDone || s.nextCommand == .reset then runCommand s.nextCommand (s.takeCommand.withStack σ)
    else .refused .beforeReset := rfl

/-- Settles O17: a command is performed on both states or refused on both, and runs alike on them. -/
theorem staleStackEntriesHaveNoEffect : Obligations.StaleStackEntriesHaveNoEffect := by
  intro s t hst
  obtain ⟨σ, rfl, -⟩ := equalButStale_iff.1 hst
  have htake : EqualButStale s.takeCommand (s.takeCommand.withStack σ) := hst.of_same_stack rfl rfl
  rw [step_withStack, step_eq]
  split
  · refine ⟨fun s' h => runCommand_equalButStale htake h, fun r h => ?_⟩
    obtain ⟨u, hu⟩ := runCommand_next s.nextCommand s.takeCommand
    rw [hu] at h; cases h
  · exact ⟨nofun, fun r h => h⟩

end Sys2Proof.Machine
end

section
/-!
SUPPORT. The invariant of the machine: every instruction keeps it in the state a fetch leaves, and so does every command.
-/
namespace Sys2Proof.Machine

variable {i : Instr} {s t : State}

/-! ## What an instruction may write, by part -/

/-- No instruction writes OPC, which a fetch latches (10_state.md R25). -/
theorem exec_opc (h : exec i s = .next t) : t.opc = s.opc :=
  exec_unchangedBut_written h .opc (by cases i <;> simp [written])

/-- Fx0A alone begins a wait, and WAITX is then its destination (10_state.md R26, R27). -/
theorem exec_waitKey (h : exec i s = .next t) (hs : s.mode = .ready) (ht : t.mode = .waitKey) :
    i = .ldVxK t.waitx := by
  have hkept : .mode ∉ written i → t.mode = .ready := fun hm => Eq.trans (exec_unchangedBut_written h .mode hm) hs
  cases i with
  | ldVxK x =>
    cases hk : s.firstKey with
    | none => rw [exec_ldVxK_of_none hk] at h; cases h; rfl
    | some k => rw [exec_ldVxK_of_some hk] at h; cases h; rw [setReg_mode, hs] at ht; cases ht
  | _ => rw [hkept (by simp [written])] at ht; cases ht

/-- Only 00E0 and Dxyn report a change, and both set REDRAW and report no error of their own (41_display.md R74). -/
theorem exec_changed (h : exec i s = .next t) (hs : s.changed = false) (ht : t.changed = true) :
    t.redraw = true ∧ t.err = s.err := by
  have hkept : .changed ∉ written i → t.changed = false := fun hc => Eq.trans (exec_unchangedBut_written h .changed hc) hs
  cases i with
  | cls | drw => cases h; exact ⟨rfl, rfl⟩
  | _ => rw [hkept (by simp [written])] at ht; cases ht

/-! ## The invariant -/

theorem errJustified_of_none (h : s.err = .none) : ErrJustified s := by simp [ErrJustified, h]

/-- An error an instruction reports is borne out by the state it leaves: 2nnn found the stack full, 00EE found it empty. -/
theorem exec_errJustified (h : exec i s = .next t) (hopc : s.opc = encode i) (hs : s.err = .none) : ErrJustified t := by
  have hkept : .err ∉ written i → ErrJustified t := fun he =>
    errJustified_of_none (Eq.trans (exec_unchangedBut_written h .err he) hs)
  cases i with
  | ret =>
    rcases sp_zero_or_pos s with h0 | h0
    · rw [exec_ret_of_empty h0] at h; cases h; exact ⟨rfl, h0, hopc⟩
    · rw [exec_ret_of_pos h0] at h; cases h; exact errJustified_of_none hs
  | call nnn =>
    rcases sp_lt_or_full s with h0 | h0
    · rw [exec_call_of_lt h0] at h; cases h; exact errJustified_of_none hs
    · rw [exec_call_of_full h0] at h; cases h; exact ⟨rfl, h0, nnn, hopc⟩
  | _ => exact hkept (by simp [written])

/-- The instruction a fetch has latched in OPC establishes the invariant. -/
theorem exec_inv (h : exec i s = .next t) (hmem : s.mem.wf) (hopc : s.opc = encode i) (hmode : s.mode = .ready)
    (hchanged : s.changed = false) (herr : s.err = .none) : Inv t where
  mem := exec_wf h hmem
  waiting ht := (exec_opc h).trans (hopc.trans (congrArg encode (exec_waitKey h hmode ht)))
  changed ht := by
    obtain ⟨hredraw, he⟩ := exec_changed h hchanged ht
    exact ⟨hredraw, he.trans herr⟩
  err := exec_errJustified h hopc herr

/-- The invariant does not speak of the coming commands. -/
theorem Inv.takeCommand (h : Inv s) : Inv s.takeCommand := ⟨h.mem, h.waiting, h.changed, h.err⟩

/-- A command keeps the invariant when it reports no change and at most a justified error, keeps memory in its form, and
leaves MODE, OPC and WAITX alone. -/
theorem Inv.of_quiet (h : Inv s) (hmem : t.mem.wf) (hmode : t.mode = s.mode) (hopc : t.opc = s.opc)
    (hwaitx : t.waitx = s.waitx) (hchanged : t.changed = false) (herr : ErrJustified t) : Inv t where
  mem := hmem
  waiting ht := by rw [hopc, hwaitx]; exact h.waiting (hmode.symm.trans ht)
  changed ht := by rw [hchanged] at ht; cases ht
  err := herr

/-- A STEP that fetches: an instruction that the fetched word encodes, or the report of a word outside the table. -/
theorem stepReady_inv (h : Inv s) (hmode : s.mode = .ready) (hrun : stepReady s = .next t) : Inv t := by
  cases hd : decodeWord s.fetchWord with
  | ok i =>
    rw [stepReady_of_ok hd] at hrun
    exact exec_inv hrun h.mem (encode_of_decodeWord hd).symm hmode rfl rfl
  | error e =>
    rw [stepReady_of_error hd] at hrun; cases hrun
    refine ⟨h.mem, fun ht => ?_, nofun, rfl, wellFormedWord_of_decodeWord_error hd⟩
    rw [raise_mode, fetched_mode, hmode] at ht
    cases ht

theorem stepWaiting_inv (h : Inv s) (herr : s.err = .none) : Inv (stepWaiting s) := by
  cases hk : s.firstKey with
  | none => rwa [stepWaiting_of_none hk]
  | some k =>
    rw [stepWaiting_of_some hk]
    exact ⟨h.mem, nofun, h.changed, errJustified_of_none herr⟩

theorem loadCommand_inv (h : Inv s) (bytes : List Byte) : Inv (loadCommand bytes s) := by
  cases hb : wellFormedImage bytes with
  | true =>
    rw [loadCommand_of_wellFormed hb]
    have hmem : s.beginCommand.mem.wf := h.mem
    exact h.of_quiet (memWriteAll_wf hmem _ _) (by simp) (by simp) (by simp) (by simp) (errJustified_of_none (by simp))
  | false =>
    rw [loadCommand_of_illFormed hb]
    have hlen : Config.maxProgramBytes < bytes.length := by simpa [wellFormedImage] using hb
    exact h.of_quiet h.mem rfl rfl rfl rfl hlen

theorem runCommand_inv {c : Command} (h : Inv s) (hrun : runCommand c s = .next t) : Inv t := by
  cases c with
  | reset => cases hrun; exact ⟨⟨.nil, nofun⟩, nofun, nofun, trivial⟩
  | load bytes => cases hrun; exact loadCommand_inv h bytes
  | step =>
    cases hm : s.mode with
    | ready => rw [runCommand, stepCommand_of_ready hm] at hrun; exact stepReady_inv h hm hrun
    | waitKey =>
      rw [runCommand, stepCommand_of_waiting hm] at hrun; cases hrun
      exact stepWaiting_inv (h.of_quiet h.mem rfl rfl rfl rfl (errJustified_of_none rfl)) rfl
  | _ => cases hrun; exact h.of_quiet h.mem rfl rfl rfl rfl (errJustified_of_none rfl)

/-- Settles O18, command by command; a STEP by the instruction it fetches. -/
theorem stepKeepsInvariant : Obligations.StepKeepsInvariant := fun _ _ h hstep =>
  runCommand_inv h.takeCommand (run_of_step hstep)

end Sys2Proof.Machine
end

section
/-!
SUPPORT. Memory as the machine reads it (20_memory.md R32, R33): a read after a write, and the canonical form decided by the
4096 cells.
-/
namespace Sys2Proof.Machine

variable {s t : State}

/-! ## A read after a write -/

/-- Settles O23, from the read of a written cell and the frame of a change of memory. -/
theorem memoryReadAfterWrite : Obligations.MemoryReadAfterWrite := fun s a b v =>
  ⟨memRead_memWrite s a b v, unchanged_withMem s _⟩

/-! ## The canonical form -/

/-- In canonical form no address from 4096 upward is listed. -/
theorem Memory.get_of_memSize_le {m : Memory} (h : m.wf) {a : Nat} (ha : Config.memSize ≤ a) :
    Memory.get m a = resetByte a :=
  Memory.get_of_forall_ne fun c hc => ((h.2 c hc).1.trans_le ha).ne

/-- An address below 4096 names the cell of that number (20_memory.md R32). -/
theorem memRead_of_lt {a : Nat} (h : a < Config.memSize) : s.memRead a = Memory.get s.mem a :=
  congrArg (Memory.get s.mem) (Nat.mod_eq_of_lt h)

/-- Memories in canonical form that the machine reads alike are alike as lists: below 4096 by what is read, from 4096 upward
because neither lists anything there. -/
theorem get_eq_of_memRead_eq (hs : s.mem.wf) (ht : t.mem.wf) (h : ∀ a < Config.memSize, s.memRead a = t.memRead a) (a : Nat) :
    Memory.get s.mem a = Memory.get t.mem a := by
  rcases Nat.lt_or_ge a Config.memSize with ha | ha
  · have hread := h a ha
    rwa [memRead_of_lt ha, memRead_of_lt ha] at hread
  · rw [Memory.get_of_memSize_le hs ha, Memory.get_of_memSize_le ht ha]

/-- Settles O24: lists in canonical form are decided by what they list at every address. -/
theorem canonicalMemoriesThatReadAlikeAreEqual : Obligations.CanonicalMemoriesThatReadAlikeAreEqual :=
  fun _ _ hs ht h => Memory.eq_of_get_eq hs ht (get_eq_of_memRead_eq hs ht h)

end Sys2Proof.Machine
end

section
/-!
SUPPORT. The encoding file's statements (30_encoding.md R48 to R54): decoder and encoder on words and on bytes, the rows of the
opcode table, and the words that are UNKNOWN.
-/
namespace Sys2Proof

variable {w : Word}

/-! ## Decoder and encoder -/

/-- The two bytes of a word decode as the word does, and what follows them is handed back. -/
theorem decode_hiByte_loByte {i : Instr} (h : decodeWord w = .ok i) (rest : List Byte) :
    decode (hiByte w :: loByte w :: rest) = .ok (i, rest) := by
  rw [decode, wordOfBytes_hi_lo, h]

/-- Settles O1: on words by cases on the instruction, and on bytes because the two bytes make up the word again. -/
theorem decodeOfEncode : Obligations.DecodeOfEncode := fun i rest =>
  ⟨decodeWord_encode i, decode_hiByte_loByte (decodeWord_encode i) rest⟩

/-- Settles O2, family by family. -/
theorem encodeOfDecode : Obligations.EncodeOfDecode := fun _ _ h => encode_of_decodeWord h

theorem encode_injective : Function.Injective encode := fun i j h =>
  Except.ok.inj ((decodeWord_encode i).symm.trans (h ▸ decodeWord_encode j))

/-! ## The rows of the opcode table -/

/-- No two rows of the opcode table have the same name. -/
theorem nodup_mnemonics : (opcodeTable.map (·.mnemonic)).Nodup := by decide

/-- Rows that admit the same word have the same name: it is the word of an instruction of either row, and instructions with the
same word are the same. -/
theorem mnemonic_eq_of_admits {r r' : OpcodeRow} (hr : r ∈ opcodeTable) (hr' : r' ∈ opcodeTable) (h : r.admits w = true)
    (h' : r'.admits w = true) : r.mnemonic = r'.mnemonic := by
  obtain ⟨i, hi, hw⟩ := exists_encode_of_admits hr h
  obtain ⟨j, hj, hw'⟩ := exists_encode_of_admits hr' h'
  rw [← hi, ← hj, encode_injective (hw.trans hw'.symm)]

theorem exists_decodeWord_of_admits {r : OpcodeRow} (hr : r ∈ opcodeTable) (h : r.admits w = true) :
    ∃ i, decodeWord w = .ok i ∧ i.mnemonic = r.mnemonic := by
  obtain ⟨i, hi, rfl⟩ := exists_encode_of_admits hr h
  exact ⟨i, decodeWord_encode i, hi⟩

/-- Settles O3: a row's word is the word of an instruction of that row, whose name is no other row's. -/
theorem tableRowsDecodeAndDoNotOverlap : Obligations.TableRowsDecodeAndDoNotOverlap :=
  ⟨fun _ hr _ h => exists_decodeWord_of_admits hr h, fun _ _ hr _ hr' h h' =>
    List.inj_on_of_nodup_map nodup_mnemonics hr hr' (mnemonic_eq_of_admits hr hr' h h')⟩

/-! ## The UNKNOWN words -/

theorem fieldF_eq_iff {f : BitVec 4} : fieldF w = f ↔ w.toNat / 4096 = f.toNat := by
  rw [← BitVec.toNat_inj, fieldF, BitVec.extractLsb'_toNat, Nat.shiftRight_eq_div_pow, Nat.mod_eq_of_lt (by omega)]

theorem fieldN_eq_iff {n : BitVec 4} : fieldN w = n ↔ w.toNat % 16 = n.toNat := by
  rw [← BitVec.toNat_inj, fieldN, BitVec.extractLsb'_toNat, Nat.shiftRight_zero]

theorem fieldKK_eq_iff {kk : Byte} : fieldKK w = kk ↔ w.toNat % 256 = kk.toNat := by
  rw [← BitVec.toNat_inj, fieldKK, BitVec.extractLsb'_toNat, Nat.shiftRight_zero]

/-- The six sets of words that stand for no instruction (30_encoding.md R54), by the fields of the word. -/
def UnknownWord (w : Word) : Prop :=
  (fieldF w = 0x0#4 ∧ w ≠ 0x00E0#16 ∧ w ≠ 0x00EE#16) ∨ (fieldF w = 0x5#4 ∧ fieldN w ≠ 0x0#4) ∨
  (fieldF w = 0x8#4 ∧ fieldN w ∈ [0x8#4, 0x9#4, 0xA#4, 0xB#4, 0xC#4, 0xD#4, 0xF#4]) ∨
  (fieldF w = 0x9#4 ∧ fieldN w ≠ 0x0#4) ∨ (fieldF w = 0xE#4 ∧ fieldKK w ∉ [0x9E#8, 0xA1#8]) ∨
  (fieldF w = 0xF#4 ∧
    fieldKK w ∉ [0x07#8, 0x0A#8, 0x15#8, 0x18#8, 0x1E#8, 0x29#8, 0x33#8, 0x55#8, 0x65#8])

/-- The word of an instruction lies in none of the six sets. -/
theorem not_unknownWord_encode (i : Instr) : ¬ UnknownWord (encode i) := by
  cases i with
  | cls | ret => unfold UnknownWord; decide
  | _ => simp [encode, UnknownWord]

section refused
variable {e : DecodeError}

/-- The values of n that family 0x8 leaves are those of its set. -/
theorem fieldN_of_decodeFamily8_error (h : decodeFamily8 w = .error e) :
    fieldN w ∈ [0x8#4, 0x9#4, 0xA#4, 0xB#4, 0xC#4, 0xD#4, 0xF#4] := by
  unfold decodeFamily8 at h
  dsimp only at h
  split at h
  case h_10 =>
    clear h
    generalize fieldN w = n at *
    decide +revert
  all_goals cases h

/-- Family 0xF refuses only a kk that none of its operations has. -/
theorem fieldKK_of_decodeFamilyF_error (h : decodeFamilyF w = .error e) :
    fieldKK w ∉ [0x07#8, 0x0A#8, 0x15#8, 0x18#8, 0x1E#8, 0x29#8, 0x33#8, 0x55#8, 0x65#8] := by
  unfold decodeFamilyF at h
  dsimp only at h
  split at h
  case h_10 => simp_all
  all_goals cases h

/-- A word the decoder refuses lies in one of the six sets, that of its family. -/
theorem unknownWord_of_decodeWord_error (h : decodeWord w = .error e) : UnknownWord w := by
  unfold decodeWord at h
  dsimp only at h
  split at h
  -- family 0x0
  case h_1 =>
    next hf =>
      split_ifs at h with hcls hret
      exact .inl ⟨hf, hcls, hret⟩
  -- families 0x5 and 0x9
  case h_6 | h_10 =>
    next hf =>
      split_ifs at h with hn
      simp [UnknownWord, hf, hn]
  case h_9 => next hf => simpa [UnknownWord, hf] using fieldN_of_decodeFamily8_error h
  -- family 0xE
  case h_15 =>
    next hf =>
      split_ifs at h with hskp hsknp
      simp [UnknownWord, hf, hskp, hsknp]
  case h_16 =>
    have hkk := fieldKK_of_decodeFamilyF_error h
    have hf : fieldF w = 0xF#4 := by
      clear h hkk
      generalize fieldF w = f at *
      decide +revert
    simpa [UnknownWord, hf] using hkk
  -- the other families decode every word
  all_goals cases h

end refused

/-- The decoder refuses the words of the six sets: one that decodes is the word of an instruction, which lies in none of them. -/
theorem decodeWord_of_unknownWord (hu : UnknownWord w) : decodeWord w = .error (.unknown w) := by
  cases h : decodeWord w with
  | ok i =>
    rw [← encode_of_decodeWord h] at hu
    exact absurd hu (not_unknownWord_encode i)
  | error e => rw [Machine.decodeWord_error h]

theorem exists_decodeWord_of_not_unknownWord (hu : ¬ UnknownWord w) : ∃ i, decodeWord w = .ok i := by
  cases h : decodeWord w with
  | ok i => exact ⟨i, rfl⟩
  | error e => exact absurd (unknownWord_of_decodeWord_error h) hu

/-- Settles O4: the six sets by the word's number are the six sets by its fields. -/
theorem unknownWordsAreTheSixSets : Obligations.UnknownWordsAreTheSixSets := by
  intro w f n kk unknown
  have hu : unknown ↔ UnknownWord w := by
    simp only [unknown, UnknownWord, fieldF_eq_iff, fieldN_eq_iff, fieldKK_eq_iff, List.mem_cons, List.not_mem_nil, ne_eq]
    rfl
  rw [hu]
  exact ⟨decodeWord_of_unknownWord, exists_decodeWord_of_not_unknownWord⟩

/-! ## Sample words -/

/-- Settles O5: the decoder is run on each of the ten words. -/
theorem sampleWordsDecode : Obligations.SampleWordsDecode := by
  unfold Obligations.SampleWordsDecode
  decide

end Sys2Proof
end

section
/-!
SUPPORT. The STEP file's statements (40_step.md R60 to R68): an equation for each thing a STEP can be, what it reports in
`changed`, and the MODE after every command.
-/
namespace Sys2Proof.Machine

variable {i : Instr} {c : Command} {s t : State} {k x : RegIdx}

/-! ## The frames of what comes before an instruction -/

/-- Latching OPC and advancing PC changes these two and the outputs (40_step.md R60). -/
theorem unchanged_fetched (s : State) : UnchangedBut ([.opc, .pc] ++ outputs) s s.fetched := by
  intro p hp
  cases p with
  | opc | pc | changed | err | reply => exact absurd (by decide) hp
  | v | stack | mem | key => exact fun _ => rfl
  | fb => exact fun _ _ => rfl
  | _ => exact (rfl : _ = _)

theorem unchanged_aboutToFetch (s : State) : UnchangedBut [.mode, .pending, .resetDone] s s.aboutToFetch := by
  intro p hp
  cases p with
  | mode | pending | resetDone => exact absurd (by decide) hp
  | v | stack | mem | key => exact fun _ => rfl
  | fb => exact fun _ _ => rfl
  | _ => exact (rfl : _ = _)

/-- A command begins by coming off the list and clearing the outputs, and changes nothing else so far. -/
theorem unchanged_takeCommand_beginCommand (s : State) :
    UnchangedBut (.pending :: outputs) s s.takeCommand.beginCommand :=
  (unchanged_takeCommand s).trans (unchanged_beginCommand _)

/-- The smallest pressed key is the one a poll and Fx0A take. -/
theorem SmallestKey.firstKey (h : SmallestKey s k) : s.firstKey = some k := by
  obtain ⟨hdown, hleast⟩ := h
  exact firstKey_of_smallest hdown hleast

/-! ## What a STEP can be -/

section step
variable (hdone : s.resetDone = true) (hcmd : s.nextCommand = .step)
include hdone hcmd

/-- A STEP that fetches the word of an instruction runs it (40_step.md R60). -/
theorem step_ready_of_ok (hmode : s.mode = .ready) (hd : decodeWord s.fetchWord = .ok i) :
    step s = exec i s.takeCommand.fetched :=
  (step_ready hdone hcmd hmode).trans (stepReady_of_ok (s := s.takeCommand) hd)

/-- A STEP that fetches an UNKNOWN word reports it (40_step.md R66). -/
theorem step_ready_of_error {e : DecodeError} (hmode : s.mode = .ready) (hd : decodeWord s.fetchWord = .error e) :
    step s = .next (s.takeCommand.fetched.raise (.unknownOpcode s.fetchWord)) :=
  (step_ready hdone hcmd hmode).trans (stepReady_of_error (s := s.takeCommand) hd)

/-- A STEP that runs Fx0A with a key pressed takes the smallest one (45_keys_timers.md R109). -/
theorem step_ldVxK_of_smallestKey (hmode : s.mode = .ready) (hd : decodeWord s.fetchWord = .ok (.ldVxK x))
    (hk : SmallestKey s k) : step s = .next (s.takeCommand.fetched.setReg x (keyByte k)) :=
  (step_ready_of_ok hdone hcmd hmode hd).trans (exec_ldVxK_of_some (s := s.takeCommand.fetched) hk.firstKey x)

/-- A STEP that runs Fx0A with no key pressed begins a wait (45_keys_timers.md R109). -/
theorem step_ldVxK_of_noKey (hmode : s.mode = .ready) (hd : decodeWord s.fetchWord = .ok (.ldVxK x)) (hk : NoKey s) :
    step s = .next (s.takeCommand.fetched.holdForKey x) :=
  (step_ready_of_ok hdone hcmd hmode hd).trans
    (exec_ldVxK_of_none (s := s.takeCommand.fetched) (firstKey_eq_none.2 hk) x)

/-- A poll with a key pressed takes the smallest one and goes on (40_step.md R61). -/
theorem step_waiting_of_smallestKey (hmode : s.mode = .waitKey) (hk : SmallestKey s k) :
    step s = .next (s.takeCommand.beginCommand.setReg s.waitx (keyByte k)).resume :=
  (step_waiting hdone hcmd hmode).trans
    (congrArg _ (stepWaiting_of_some (s := s.takeCommand.beginCommand) hk.firstKey))

/-- A poll with no key pressed leaves the machine waiting (40_step.md R61). -/
theorem step_waiting_of_noKey (hmode : s.mode = .waitKey) (hk : NoKey s) : step s = .next s.takeCommand.beginCommand :=
  (step_waiting hdone hcmd hmode).trans
    (congrArg _ (stepWaiting_of_none (s := s.takeCommand.beginCommand) (firstKey_eq_none.2 hk)))

end step

/-! ## The two MODEs of a STEP (40_step.md R60, R61) -/

/-- Settles O6: the word written with shift and OR is the fetched word, and what the fetch leaves is `State.fetched`. -/
theorem readyStepRunsDecodedInstruction : Obligations.ReadyStepRunsDecodedInstruction := by
  intro s hdone hcmd hmode hi lo w t
  have hw : w = s.fetchWord := (wordOfBytes_eq_or hi lo).symm
  have ht : t = s.takeCommand.fetched := by simp only [t, hw]; rfl
  rw [ht, hw]
  exact ⟨fun _ hd => step_ready_of_ok hdone hcmd hmode hd, fun _ hd => step_ready_of_error hdone hcmd hmode hd⟩

/-- Settles O8: a poll by whether a key is pressed. -/
theorem waitingStepPollsKeypad : Obligations.WaitingStepPollsKeypad := by
  intro s hdone hcmd hmode
  have hbegin := unchanged_takeCommand_beginCommand s
  refine ⟨fun k hk => ⟨_, step_waiting_of_smallestKey hdone hcmd hmode hk, ?_, ?_, rfl, rfl, rfl, rfl, rfl, rfl, ?_⟩,
    fun hk => ⟨_, step_waiting_of_noKey hdone hcmd hmode hk, rfl, rfl, rfl, rfl, hbegin⟩⟩
  · simp [keyByte]
  · exact regs_setReg s.takeCommand.beginCommand _ _
  · exact ((hbegin.trans (unchanged_setReg _ _ _)).trans (unchanged_resume _)).mono (by decide)

/-! ## A word placed at PC (log entry 5) -/

/-- With no command to come the host issues STEP (log entry 1), which runs the instruction fetched. -/
theorem step_of_pending_nil (hpending : s.pending = []) (hdone : s.resetDone = true) (hmode : s.mode = .ready)
    (hd : decodeWord s.fetchWord = .ok i) : step s = exec i s.fetched := by
  have hcmd : s.nextCommand = .step := by rw [State.nextCommand, hpending]; rfl
  have htake : s.takeCommand = s := by rw [State.takeCommand, hpending, List.tail_nil, ← hpending]
  rw [step_ready_of_ok hdone hcmd hmode hd, htake]

theorem tableWord_toNat (w : Word) : tableWord 16 w.toNat = w := by
  rw [tableWord, Nat.mod_eq_of_lt w.isLt, BitVec.ofNat_toNat, BitVec.setWidth_eq]

@[simp] theorem storeAtPc_pc (s : State) (w : Word) : (s.storeAtPc w).pc = s.pc := memWriteAll_pc s _ _

/-- The word stored at PC is the one a fetch reads (20_memory.md R35). -/
theorem fetchWord_storeAtPc (s : State) (w : Word) : (s.storeAtPc w).fetchWord = w := by
  have hhi : (s.storeAtPc w).memRead s.pc.toNat = hiByte w :=
    memRead_memWriteAll s s.pc.toNat 0 [hiByte w, loByte w] (by simp) (by simp [Config.memSize])
  have hlo : (s.storeAtPc w).memRead (s.pc.toNat + 1) = loByte w :=
    memRead_memWriteAll s s.pc.toNat 1 [hiByte w, loByte w] (by simp) (by simp [Config.memSize])
  rw [State.fetchWord, storeAtPc_pc, hhi, hlo, wordOfBytes_hi_lo]

/-- Settles O7: what `withFetchWord` leaves is a machine whose next command is a STEP that fetches the stored word. -/
theorem placedWordIsFetchedAndRun : Obligations.PlacedWordIsFetchedAndRun := by
  intro s w i hd t
  have ht : t = s.aboutToFetch.storeAtPc w := congrArg s.aboutToFetch.storeAtPc (tableWord_toNat w)
  rw [ht]
  have hfetch := fetchWord_storeAtPc s.aboutToFetch w
  have hstep : step (s.aboutToFetch.storeAtPc w) = exec i (s.aboutToFetch.storeAtPc w).fetched :=
    step_of_pending_nil (memWriteAll_pending _ _ _) (memWriteAll_resetDone _ _ _) (memWriteAll_mode _ _ _)
      (hfetch.symm ▸ hd)
  exact ⟨hfetch, hstep, bytes_memWriteAll s.aboutToFetch _ [hiByte w, loByte w],
    ((unchanged_aboutToFetch s).trans (unchanged_memWriteAll _ _ _)).mono (by decide)⟩

/-! ## Parked states (40_step.md R68) -/

/-- A state that keeps MODE, PC and memory stays parked. -/
theorem Parked.of_unchanged {ps : List Part} (h : Parked s) (hframe : UnchangedBut ps s t) (hmode : .mode ∉ ps)
    (hpc : .pc ∉ ps) (hmem : .mem ∉ ps) : Parked t := by
  obtain ⟨hready, nnn, hword, hself⟩ := h
  have hsame : t.pc = s.pc := hframe .pc hpc
  have hfetch : t.fetchWord = s.fetchWord := by
    rw [State.fetchWord, hsame, hframe .mem hmem, hframe .mem hmem]; rfl
  have hkept : t.mode = s.mode := hframe .mode hmode
  exact ⟨hkept.trans hready, nnn, hfetch.trans hword, hself.trans hsame.symm⟩

/-- The jump of a parked state puts PC back where the fetch found it. -/
theorem unchanged_fetched_setPc_self (s : State) : UnchangedBut (.opc :: outputs) s (s.fetched.setPc s.pc) := by
  intro p hp
  by_cases hpc : p = .pc
  · subst hpc; rfl
  · exact ((unchanged_fetched s).trans (unchanged_setPc _ _)) p (by simp_all)

/-- Settles O25: the jump goes to its own address, so all that the fetch leaves is the latched OPC. -/
theorem parkedStaysParked : Obligations.ParkedStaysParked := by
  intro s hdone hcmd hparked
  have ⟨hready, nnn, hword, hself⟩ := hparked
  have hstep : step s = .next (s.takeCommand.fetched.setPc s.takeCommand.pc) := by
    rw [step_ready_of_ok hdone hcmd hready (hword ▸ decodeWord_encode _), takeCommand_pc, ← hself]; rfl
  have hframe : UnchangedBut ([.opc, .pending] ++ outputs) s (s.takeCommand.fetched.setPc s.takeCommand.pc) :=
    ((unchanged_takeCommand s).trans (unchanged_fetched_setPc_self _)).mono (by decide)
  exact ⟨_, hstep, hframe, rfl, rfl, rfl, hparked.of_unchanged hframe (by decide) (by decide) (by decide)⟩

/-! ## What a STEP reports in `changed` (40_step.md R62, 41_display.md R74) -/

theorem changed_mem_written_iff : .changed ∈ written i ↔ i = .cls ∨ ∃ x y n, i = .drw x y n := by
  cases i <;> simp [written]

theorem redraw_mem_written_iff : .redraw ∈ written i ↔ .changed ∈ written i := by cases i <;> simp [written]

/-- An instruction reports a change exactly when it is 00E0 or Dxyn, whether or not a pixel differs (D15). -/
theorem exec_changed_iff (h : exec i s = .next t) (hs : s.changed = false) :
    t.changed = true ↔ i = .cls ∨ ∃ x y n, i = .drw x y n := by
  constructor
  · intro ht
    by_contra hi
    have hkept : t.changed = s.changed := exec_unchangedBut_written h .changed (mt changed_mem_written_iff.1 hi)
    rw [hkept, hs] at ht
    cases ht
  · rintro (rfl | ⟨x, y, n, rfl⟩) <;> cases h <;> rfl

/-- An instruction that reports no change leaves REDRAW alone. -/
theorem exec_redraw_of_not_changed (h : exec i s = .next t) (hs : s.changed = false) (ht : t.changed = false) :
    t.redraw = s.redraw := by
  refine exec_unchangedBut_written h .redraw fun hi => ?_
  rw [(exec_changed_iff h hs).2 (changed_mem_written_iff.1 (redraw_mem_written_iff.1 hi))] at ht
  cases ht

/-- Settles O9: a poll and the report of an UNKNOWN word change neither output nor REDRAW; otherwise by the instruction. -/
theorem changedMarksDisplayInstructions : Obligations.ChangedMarksDisplayInstructions := by
  intro s hdone hcmd
  cases hmode : s.mode with
  | waitKey =>
    have hframe := unchanged_stepWaiting s.takeCommand.beginCommand
    have hchanged : (stepWaiting s.takeCommand.beginCommand).changed = false := hframe .changed (by decide)
    exact ⟨_, step_waiting hdone hcmd hmode, by simp [hchanged], by simp [hchanged], fun _ => hframe .redraw (by decide)⟩
  | ready =>
    cases hd : decodeWord s.fetchWord with
    | error e => exact ⟨_, step_ready_of_error hdone hcmd hmode hd, by simp, by simp, fun _ => rfl⟩
    | ok i =>
      obtain ⟨t, ht⟩ := exec_next i s.takeCommand.fetched
      refine ⟨t, (step_ready_of_ok hdone hcmd hmode hd).trans ht, ?_, fun hc => (exec_changed ht rfl hc).1,
        exec_redraw_of_not_changed (s := s.takeCommand.fetched) ht rfl⟩
      simpa using exec_changed_iff ht rfl

/-! ## The MODE after every command (40_step.md R67) -/

/-- A STEP in MODE Ready that does not execute Fx0A ends in MODE Ready. -/
theorem stepReady_mode (h : stepReady s = .next t) (hmode : s.mode = .ready)
    (hd : ∀ x, decodeWord s.fetchWord ≠ .ok (.ldVxK x)) : t.mode = .ready := by
  rcases stepReady_cases s with ⟨i, hi, hrun⟩ | ⟨e, -, hrun⟩ <;> rw [hrun] at h
  · cases ht : t.mode with
    | ready => rfl
    | waitKey => exact absurd (exec_waitKey h hmode ht ▸ hi) (hd _)
  · cases h; exact hmode

/-- Only STEP and RESET change MODE. -/
theorem runCommand_mode (h : runCommand c s = .next t) (hstep : c ≠ .step) (hreset : c ≠ .reset) : t.mode = s.mode := by
  cases c with
  | step => exact absurd rfl hstep
  | reset => exact absurd rfl hreset
  | load bytes => cases h; exact unchanged_loadCommand bytes s .mode (by decide)
  | _ => cases h; rfl

/-- Settles O13, row by row of the table. -/
theorem modeTransitionTable : Obligations.ModeTransitionTable := by
  intro s hdone
  obtain ⟨t, hrun⟩ := runCommand_next s.nextCommand s.takeCommand
  have hstep : step s = .next t := (step_of_resetDone hdone).trans hrun
  refine ⟨t, hstep, fun hcmd hmode hd => ?_, fun x k hcmd hmode hd hk => ?_, fun x hcmd hmode hd hk => ?_,
    fun k hcmd hmode hk => ?_, fun hcmd hmode hk => ?_, fun hcmd => ?_, runCommand_mode (s := s.takeCommand) hrun⟩
  · rw [step_ready hdone hcmd hmode] at hstep
    exact stepReady_mode hstep hmode hd
  · rw [step_ldVxK_of_smallestKey hdone hcmd hmode hd hk] at hstep; cases hstep
    exact ⟨hmode, by simp [keyByte], rfl⟩
  · rw [step_ldVxK_of_noKey hdone hcmd hmode hd hk] at hstep; cases hstep
    exact ⟨rfl, by simp, rfl⟩
  · rw [step_waiting_of_smallestKey hdone hcmd hmode hk] at hstep; cases hstep
    exact ⟨rfl, by simp [keyByte], rfl⟩
  · rw [step_waiting_of_noKey hdone hcmd hmode hk] at hstep; cases hstep
    exact ⟨hmode, unchanged_takeCommand_beginCommand s⟩
  · rw [step_of_reset hcmd] at hstep; cases hstep
    rfl

end Sys2Proof.Machine
end

section
/-!
SUPPORT. The display file's statements (41_display.md R69 to R74): what Dxyn does to each pixel and to VF, as equations about
the state it leaves, and what it reads of a state.
-/
namespace Sys2Proof.Machine

variable {s t : State} {x y : RegIdx} {n : Fin 16}

/-! ## 00E0 -/

/-- Settles O34: the display is replaced by the clear framebuffer, and the frame is that of a display change. -/
theorem clsClearsFramebuffer : Obligations.ClsClearsFramebuffer :=
  ⟨decodeWord_encode .cls, fun s => ⟨_, rfl, pixel_clear, rfl, rfl, unchanged_displayed s _⟩⟩

/-! ## Dxyn -/

theorem flagByte_eq_zero {b : Bool} : flagByte b = 0 ↔ b = false := by cases b <;> decide

/-- Dxyn flips exactly the pixels with a sprite bit (41_display.md R71). -/
theorem exec_drw_pixel (h : exec (.drw x y n) s = .next t) (c : Fin 64) (r : Fin 32) :
    t.fb.pixel c r = (s.fb.pixel c r ^^ spriteBit s x y n c r) := by
  cases h; exact (blits_blit s x y n).pixel c r

/-- VF after Dxyn is the collision of the draw, written last (41_display.md R72). -/
theorem exec_drw_vf (h : exec (.drw x y n) s = .next t) : t.reg vf = flagByte (s.blit x y n).2 := by
  cases h; simp

/-- The draw collides exactly when a pixel with a sprite bit was lit (41_display.md R72). -/
theorem blit_hit_iff (s : State) (x y : RegIdx) (n : Fin 16) :
    (s.blit x y n).2 = true ↔ ∃ c r, spriteBit s x y n c r = true ∧ s.fb.pixel c r = true := by
  simpa using (blits_blit s x y n).hit

theorem exec_drw_vf_eq_one_iff (h : exec (.drw x y n) s = .next t) :
    t.reg vf = 1 ↔ ∃ c r, spriteBit s x y n c r = true ∧ s.fb.pixel c r = true := by
  rw [exec_drw_vf h, flagByte_eq_one, blit_hit_iff]

theorem exec_drw_vf_eq_zero_iff (h : exec (.drw x y n) s = .next t) :
    t.reg vf = 0 ↔ ¬ ∃ c r, spriteBit s x y n c r = true ∧ s.fb.pixel c r = true := by
  rw [exec_drw_vf h, flagByte_eq_zero, ← blit_hit_iff, Bool.not_eq_true]

/-- Settles O35: the loop is the XOR of the framebuffer with the sprite, and the frame is that of every Dxyn. -/
theorem drwIsXorOfVisibleSprite : Obligations.DrwIsXorOfVisibleSprite := by
  refine fun x y n => ⟨decodeWord_encode (.drw x y n), fun s => ?_⟩
  obtain ⟨t, h⟩ := exec_next (.drw x y n) s
  have hflags : t.redraw = true ∧ t.changed = true := by cases h; exact ⟨rfl, rfl⟩
  exact ⟨t, h, exec_drw_pixel h, (exec_drw_vf_eq_one_iff h).2, (exec_drw_vf_eq_zero_iff h).2,
    exec_regsUnchangedBut_destReg h, hflags.1, hflags.2, exec_unchangedBut_written h⟩

/-! ## The same Dxyn twice -/

/-- The sprite is fixed by the registers, I and memory: the framebuffer has no part in it. -/
theorem spriteBit_congr (hreg : t.reg x = s.reg x ∧ t.reg y = s.reg y) (hi : t.i = s.i)
    (hmem : ∀ a, t.memRead a = s.memRead a) : spriteBit t x y n = spriteBit s x y n := by
  funext c r
  simp only [spriteBit, State.indexAddr, hreg, hi, hmem]

/-- Once the registers are put back, a Dxyn has left the sprite as it was. -/
theorem spriteBit_after_drw (h : exec (.drw x y n) s = .next t) :
    spriteBit { t with v := s.v } x y n = spriteBit s x y n := by
  have hframe := exec_unchangedBut_written h
  have hi : t.i = s.i := hframe .i (by simp [written])
  have hmem : ∀ a, t.memRead a = s.memRead a := hframe .mem (by simp [written])
  exact spriteBit_congr ⟨rfl, rfl⟩ hi hmem

/-- Settles O21: the second draw flips the pixels the first one flipped, and of these it finds lit the ones that were dark. -/
theorem drawingTwiceRestoresFramebuffer : Obligations.DrawingTwiceRestoresFramebuffer := by
  intro x y n s
  obtain ⟨t, h₁⟩ := exec_next (.drw x y n) s
  obtain ⟨u, h₂⟩ := exec_next (.drw x y n) { t with v := s.v }
  have hsprite := spriteBit_after_drw h₁
  have hfirst := exec_drw_pixel h₁
  refine ⟨t, u, h₁, h₂, fun c r => ?_, ?_⟩
  · calc u.fb.pixel c r
      _ = (t.fb.pixel c r ^^ spriteBit s x y n c r) := by rw [exec_drw_pixel h₂, hsprite]
      _ = s.fb.pixel c r := by rw [hfirst, Bool.xor_assoc, Bool.xor_self, Bool.xor_false]
  · rw [exec_drw_vf_eq_one_iff h₂, hsprite]
    refine exists_congr fun c => exists_congr fun r => ?_
    rw [hfirst]
    cases spriteBit s x y n c r <;> cases s.fb.pixel c r <;> decide

end Sys2Proof.Machine
end

section
/-!
SUPPORT. The control-flow file's statements (42_control_flow.md R75 to R84): what jumps, calls, returns and skips leave in PC
and on the stack, and that a return undoes a call but for a stale entry.
-/
namespace Sys2Proof.Machine

variable {s t u : State}

/-! ## The values PC takes -/

@[simp] theorem toNat_zext16 (nnn : Addr) : (zext16 nnn).toNat = nnn.toNat := by
  rw [zext16, BitVec.toNat_setWidth_of_le (by decide)]

/-- The sum of Bnnn stays below 65536, so nothing is lost of it (D28). -/
theorem toNat_zext16_add (nnn : Addr) (b : Byte) : (zext16 nnn + b.setWidth 16).toNat = nnn.toNat + b.toNat := by
  rw [BitVec.toNat_add, toNat_zext16, BitVec.toNat_setWidth_of_le (by decide)]
  omega

/-- PC after a skip, by the condition its Boolean decides (40_step.md R64). -/
theorem skipIf_pc {b : Bool} {p : Prop} [Decidable p] (h : b = true ↔ p) :
    (s.skipIf b).pc = if p then s.pc + 2 else s.pc := by
  rw [skipIf_eq, ← if_congr h rfl rfl]

/-! ## Frames -/

/-- A part that is the same after all can be taken out of a frame. -/
theorem UnchangedBut.erase {ps : List Part} {q : Part} (h : UnchangedBut ps s t) (hq : Same q s t) :
    UnchangedBut (ps.erase q) s t := by
  intro p hp
  by_cases hpq : p = q
  · rwa [hpq]
  · exact h p (mt (List.mem_erase_of_ne hpq).2 hp)

/-- Another content of the stack is a change to the stack alone. -/
theorem unchanged_withStack (s : State) (σ : Vector Word 16) : UnchangedBut [.stack] s (s.withStack σ) := by
  intro p hp
  cases p with
  | stack => exact absurd (List.mem_singleton_self _) hp
  | v | mem | key => exact fun _ => rfl
  | fb => exact fun _ _ => rfl
  | _ => exact (rfl : _ = _)

/-! ## Jumps -/

/-- Settles O37: the address is extended to 16 bits with its value kept, and the frame is that of a write to PC. -/
theorem jpSetsProgramCounter : Obligations.JpSetsProgramCounter := fun nnn =>
  ⟨decodeWord_encode (.jp nnn), fun s => ⟨_, rfl, toNat_zext16 nnn, unchanged_setPc s _⟩⟩

/-- Settles O38: no address plus a byte reaches 65536, and the frame is that of a write to PC. -/
theorem jpV0AddsV0 : Obligations.JpV0AddsV0 := fun nnn =>
  ⟨decodeWord_encode (.jpV0 nnn), fun s => ⟨_, rfl, toNat_zext16_add nnn (s.reg 0), unchanged_setPc s _⟩⟩

/-! ## Skips -/

/-- Settles O40: both are skips, on the equality of a register and the immediate and on its negation. -/
theorem skipOnImmediate : Obligations.SkipOnImmediate := fun x kk =>
  ⟨decodeWord_encode (.seImm x kk), decodeWord_encode (.sneImm x kk), fun s =>
    ⟨⟨_, rfl, skipIf_pc beq_iff_eq, unchanged_skipIf s _⟩, ⟨_, rfl, skipIf_pc bne_iff_ne, unchanged_skipIf s _⟩⟩⟩

/-- A word of family 0x5 or 0x9 with a low nibble other than 0 is UNKNOWN (30_encoding.md R54, D18). -/
theorem decodeWord_formatXYN_of_ne {f n : BitVec 4} (hf : f = 0x5#4 ∨ f = 0x9#4) (hn : n ≠ 0) (x y : RegIdx) :
    decodeWord (formatXYN f x y n) = .error (.unknown (formatXYN f x y n)) := by
  apply decodeWord_of_unknownWord
  rcases hf with rfl | rfl <;> simpa [UnknownWord] using hn

/-- Settles O41: both are skips, on the equality of two registers and on its negation; the other words of the two families lie
in the UNKNOWN sets. -/
theorem skipOnRegister : Obligations.SkipOnRegister := fun x y =>
  ⟨decodeWord_encode (.seReg x y), decodeWord_encode (.sneReg x y),
    fun _ hn => ⟨decodeWord_formatXYN_of_ne (.inl rfl) hn x y, decodeWord_formatXYN_of_ne (.inr rfl) hn x y⟩, fun s =>
    ⟨⟨_, rfl, skipIf_pc beq_iff_eq, unchanged_skipIf s _⟩, ⟨_, rfl, skipIf_pc bne_iff_ne, unchanged_skipIf s _⟩⟩⟩

/-! ## Call and return -/

/-- Settles O36: one case each for a stack that holds an entry and an empty one; a return that completes keeps within the frame of
every 00EE and reports nothing. -/
theorem retPopsProgramCounter : Obligations.RetPopsProgramCounter := by
  refine ⟨decodeWord_encode .ret, fun s k hk => ?_, fun s h => ?_⟩
  · have hret := exec_ret_of_pos (s := s) (by omega)
    exact ⟨_, hret, by simp [hk], by simp [hk], (exec_unchangedBut_written hret).erase (q := .err) rfl⟩
  · exact ⟨_, exec_ret_of_empty h, rfl, unchanged_raise s _⟩

/-- Settles O39: one case each for a stack with room and a full one; a call that completes keeps within the frame of every 2nnn
and reports nothing. -/
theorem callPushesReturnAddress : Obligations.CallPushesReturnAddress := by
  refine fun nnn => ⟨decodeWord_encode (.call nnn), fun s k hk => ?_, fun s h => ?_⟩
  · have hcall := exec_call_of_lt (s := s) (by omega) nnn
    have hframe := (exec_unchangedBut_written hcall).erase (q := .err) rfl
    refine ⟨_, hcall, toNat_zext16 nnn, congrArg (· + 1) hk, ?_, fun j hj => ?_, hframe.mono (by simp [written])⟩
    · simp [hk]
    · have hne : k.val ≠ j.val := Fin.val_ne_of_ne hj.symm
      simp [hk, hne]
  · exact ⟨_, exec_call_of_full h nnn, rfl, unchanged_raise s _⟩

/-! ## Nested calls -/

theorem EqualButStale.trans (hst : EqualButStale s t) (htu : EqualButStale t u) : EqualButStale s u := by
  obtain ⟨σ, rfl, hσ⟩ := equalButStale_iff.1 hst
  obtain ⟨τ, rfl, hτ⟩ := equalButStale_iff.1 htu
  exact ⟨rfl, fun k hk => (hτ k hk).trans (hσ k hk)⟩

/-- A return right after a call leaves the state before the call, but for the entry the call wrote, now stale. -/
theorem exec_call_then_ret (h : s.sp.val < 16) (nnn : Addr) :
    ∃ t u, exec (.call nnn) s = .next t ∧ t.sp.val = s.sp.val + 1 ∧ exec .ret t = .next u ∧ EqualButStale s u := by
  refine ⟨_, _, exec_call_of_lt h nnn, rfl, exec_ret_of_pos (Nat.succ_pos _), ?_, fun k hk => ?_⟩
  · simp [State.setPc]
  · simp [Nat.ne_of_gt hk]

/-- A list of instructions goes on from the state after the first one. -/
theorem execAll_cons_of_next {i : Instr} (h : exec i s = .next t) (is : List Instr) :
    execAll (i :: is) s = execAll is t := by
  rw [execAll, h]

/-- A list of instructions that completes, then another list. -/
theorem execAll_append_of_next {is : List Instr} (h : execAll is s = .next t) (js : List Instr) :
    execAll (is ++ js) s = execAll js t := by
  induction is generalizing s with
  | nil => cases h; rfl
  | cons i is ih =>
    obtain ⟨s', hi⟩ := exec_next i s
    rw [execAll_cons_of_next hi] at h
    rw [List.cons_append, execAll_cons_of_next hi, ih h]

/-- As many returns as calls leave the state before the calls, but for stale entries: the inner calls and returns leave the state
after the outermost call but for them, and from there the last return does what it does right after that call. -/
theorem execAll_calls_then_rets (ns : List Addr) (h : s.sp.val + ns.length ≤ 16) :
    ∃ t u, execAll (ns.map .call) s = .next t ∧ t.sp.val = s.sp.val + ns.length ∧
      execAll (List.replicate ns.length .ret) t = .next u ∧ EqualButStale s u := by
  induction ns generalizing s with
  | nil => exact ⟨s, s, rfl, rfl, rfl, EqualButStale.refl s⟩
  | cons n ns ih =>
    rw [List.length_cons] at h ⊢
    obtain ⟨s₁, s₂, hcall, hsp, hret, hs⟩ := exec_call_then_ret (s := s) (by omega) n
    obtain ⟨t, u, hcalls, htsp, hrets, hu⟩ := ih (s := s₁) (by omega)
    obtain ⟨u', hlast, hu'⟩ := exec_equalButStale hu hret
    refine ⟨t, u', ?_, by omega, ?_, hs.trans hu'⟩
    · rw [List.map_cons, execAll_cons_of_next hcall, hcalls]
    · rw [List.replicate_succ', execAll_append_of_next hrets, execAll_cons_of_next hlast, execAll]

/-- Settles O20: a state equal but for stale entries has the same PC and SP, and its stack agrees below SP. -/
theorem nestedCallsReturn : Obligations.NestedCallsReturn := by
  intro s ns h
  obtain ⟨t, u, hcalls, hsp, hrets, hu⟩ := execAll_calls_then_rets ns h
  obtain ⟨σ, rfl, hσ⟩ := equalButStale_iff.1 hu
  exact ⟨t, _, hcalls, hsp, hrets, rfl, rfl, hσ, unchanged_withStack s σ⟩

end Sys2Proof.Machine
end

section
/-!
SUPPORT. The ALU file's statements (43_alu.md R86 to R98): what the loads, the arithmetic, the logic, the shifts and the draw
leave in V[x] and in VF, as facts about bytes and about the two register writes.
-/
namespace Sys2Proof.Machine

/-! ## The two register writes -/

theorem reg_setReg_self (s : State) (x : RegIdx) (b : Byte) : (s.setReg x b).reg x = b := by
  rw [reg_setReg, if_pos rfl]

/-- The result remains unless the flag is written over it (43_alu.md R86, D10). -/
theorem reg_setRegFlag_of_ne_vf {x : RegIdx} (hx : x ≠ vf) (s : State) (b : Byte) (f : Bool) :
    (s.setRegFlag x b f).reg x = b := by
  rw [reg_setRegFlag, if_neg hx, if_pos rfl]

/-! ## Results and flags as numbers -/

/-- A difference of bytes is the difference of their values mod 256, in the integers (43_alu.md R94, R96). -/
theorem toNat_byte_sub (a b : Byte) : ((a - b).toNat : Int) = (a.toNat - b.toNat : Int) % 256 := by
  rw [BitVec.toNat_sub]
  omega

theorem toNat_byte_shiftRight_one (a : Byte) : (a >>> 1).toNat = a.toNat / 2 := by
  rw [BitVec.toNat_ushiftRight, Nat.shiftRight_one]

theorem toNat_byte_shiftLeft_one (a : Byte) : (a <<< 1).toNat = a.toNat * 2 % 256 := by
  rw [BitVec.toNat_shiftLeft, Nat.shiftLeft_eq, pow_one]

theorem flagByte_carryOut (a b : Byte) : flagByte (carryOut a b) = if a.toNat + b.toNat > 255 then 1 else 0 :=
  flagByte_decide _

theorem flagByte_notBorrow (a b : Byte) : flagByte (notBorrow a b) = if a.toNat ≥ b.toNat then 1 else 0 :=
  flagByte_decide _

/-- A byte masked by kk has no bit outside kk (43_alu.md R98). -/
theorem byte_and_and_not (b kk : Byte) : b &&& kk &&& ~~~kk = 0 := by
  rw [BitVec.and_assoc, BitVec.and_not_self]
  exact BitVec.and_zero

/-! ## Loads, copy, bitwise operations -/

/-- Settles O43: both write V[x] alone, the immediate and the wrapped sum. -/
theorem immediateLoadAndAdd : Obligations.ImmediateLoadAndAdd := fun x kk =>
  ⟨decodeWord_encode (.ldImm x kk), decodeWord_encode (.addImm x kk), fun s =>
    ⟨⟨_, rfl, reg_setReg_self s x kk, regs_setReg s x _, unchanged_setReg s x _⟩,
      ⟨_, rfl, by rw [reg_setReg_self, BitVec.toNat_add], regs_setReg s x _, unchanged_setReg s x _⟩⟩⟩

/-- Settles O44: the copy is a write of V[x] alone. -/
theorem registerCopy : Obligations.RegisterCopy := fun x y =>
  ⟨decodeWord_encode (.ldReg x y), fun s =>
    ⟨_, rfl, reg_setReg_self s x _, regs_setReg s x _, unchanged_setReg s x _⟩⟩

/-- Settles O45: each writes V[x] alone, and each bit of the result is that operation on the two bits. -/
theorem bitwiseOperations : Obligations.BitwiseOperations := fun x y =>
  ⟨decodeWord_encode (.orReg x y), decodeWord_encode (.andReg x y), decodeWord_encode (.xorReg x y), fun s =>
    ⟨⟨_, rfl, fun b _ => by rw [reg_setReg_self, BitVec.getLsbD_or], regs_setReg s x _, unchanged_setReg s x _⟩,
      ⟨_, rfl, fun b _ => by rw [reg_setReg_self, BitVec.getLsbD_and], regs_setReg s x _, unchanged_setReg s x _⟩,
      ⟨_, rfl, fun b _ => by rw [reg_setReg_self, BitVec.getLsbD_xor], regs_setReg s x _, unchanged_setReg s x _⟩⟩⟩

/-! ## The five flag writers: a result in V[x], then the flag in VF -/

/-- Settles O46: the sum wraps at 256, and the carry, written last, is whether the exact sum passes 255. -/
theorem addWithCarry : Obligations.AddWithCarry := fun x y =>
  ⟨decodeWord_encode (.addReg x y), fun s =>
    ⟨_, rfl, fun hx => by rw [reg_setRegFlag_of_ne_vf hx, BitVec.toNat_add],
      by rw [reg_vf_setRegFlag, flagByte_carryOut], regs_setRegFlag s x _ _, unchanged_setRegFlag s x _ _⟩⟩

/-- What an instruction does that writes the difference of two bytes to V[x] and then NOT borrow to VF. -/
theorem exec_subtracts {i : Instr} {s : State} {x : RegIdx} {a b : Byte}
    (h : exec i s = .next (s.setRegFlag x (a - b) (notBorrow a b))) : ∃ t, exec i s = .next t ∧
      (x ≠ vf → ((t.reg x).toNat : Int) = (a.toNat - b.toNat : Int) % 256) ∧
      t.reg vf = (if a.toNat ≥ b.toNat then 1 else 0) ∧
      RegsUnchangedBut (fun k => k = x ∨ k = vf) s t ∧ UnchangedBut [.v] s t :=
  ⟨_, h, fun hx => by rw [reg_setRegFlag_of_ne_vf hx, toNat_byte_sub],
    by rw [reg_vf_setRegFlag, flagByte_notBorrow], regs_setRegFlag s x _ _, unchanged_setRegFlag s x _ _⟩

/-- Settles O47: 8xy5 subtracts V[y] from V[x]. -/
theorem subtractWithNotBorrow : Obligations.SubtractWithNotBorrow := fun x y =>
  ⟨decodeWord_encode (.sub x y), fun _ => exec_subtracts rfl⟩

/-- Settles O48: 8xy7 subtracts V[x] from V[y]. -/
theorem reverseSubtractWithNotBorrow : Obligations.ReverseSubtractWithNotBorrow := fun x y =>
  ⟨decodeWord_encode (.subn x y), fun _ => exec_subtracts rfl⟩

/-- Settles O49: a right shift halves V[x] and its flag is the parity; a left shift doubles V[x] mod 256 and its flag is the top
bit. -/
theorem shiftsByOne : Obligations.ShiftsByOne := fun x y =>
  ⟨decodeWord_encode (.shr x y), decodeWord_encode (.shl x y), fun s =>
    ⟨⟨_, rfl, fun hx => by rw [reg_setRegFlag_of_ne_vf hx, toNat_byte_shiftRight_one],
        by rw [reg_vf_setRegFlag, toNat_flagByte, toNat_shiftedOutRight],
        regs_setRegFlag s x _ _, unchanged_setRegFlag s x _ _⟩,
      ⟨_, rfl, fun hx => by rw [reg_setRegFlag_of_ne_vf hx, toNat_byte_shiftLeft_one],
        by rw [reg_vf_setRegFlag, toNat_flagByte, toNat_shiftedOutLeft],
        regs_setRegFlag s x _ _, unchanged_setRegFlag s x _ _⟩⟩⟩

/-! ## The random byte -/

/-- Settles O50: the draw moves the counter, the write of V[x] leaves it there, and a masked byte has no bit outside its mask. -/
theorem randomByteIsMasked : Obligations.RandomByteIsMasked := fun x kk =>
  ⟨decodeWord_encode (.rnd x kk), fun s =>
    ⟨_, rfl, reg_setReg_self s.drawn x _, by rw [reg_setReg_self, byte_and_and_not], rfl, regs_setReg s.drawn x _,
      exec_unchangedBut_written (i := .rnd x kk) rfl⟩⟩

end Sys2Proof.Machine
end

section
/-!
SUPPORT. The index and memory file's statements (44_index_memory.md R99 to R104): the values I takes, the decimal digits in
memory, and the blocks of registers stored and loaded through I.
-/
namespace Sys2Proof.Machine

variable {s : State}

/-! ## The values I takes -/

/-- A number that fits a word of w bits keeps its value in it. -/
theorem toNat_ofNat_of_lt {w n : Nat} (h : n < 2 ^ w) : (BitVec.ofNat w n).toNat = n :=
  Nat.mod_eq_of_lt h

/-- The sum of Fx1E wraps at 65536 (44_index_memory.md R100, D29). -/
theorem toNat_word_add_byte (w : Word) (b : Byte) : (w + b.setWidth 16).toNat = (w.toNat + b.toNat) % 65536 := by
  rw [BitVec.toNat_add, BitVec.toNat_setWidth_of_le (by decide)]

/-- The last glyph begins at 75, so the address of a glyph is five times its digit (44_index_memory.md R101, D6, D7). -/
theorem toNat_glyphAddr_lowNibble (b : Byte) : (glyphAddr (lowNibble b)).toNat = 5 * (b.toNat % 16) :=
  toNat_ofNat_of_lt (w := 16) (n := 5 * (b.toNat % 16)) (by omega)

/-- Settles O51: the address is extended to 16 bits with its value kept, and the frame is that of a write to I. -/
theorem loadIndexRegister : Obligations.LoadIndexRegister := fun nnn =>
  ⟨decodeWord_encode (.ldI nnn), fun s => ⟨_, rfl, toNat_zext16 nnn, unchanged_setI s _⟩⟩

/-- Settles O52: the sum is taken mod 65536, and the frame of a write to I leaves VF alone. -/
theorem addToIndexRegister : Obligations.AddToIndexRegister := fun x =>
  ⟨decodeWord_encode (.addIVx x), fun s => ⟨_, rfl, toNat_word_add_byte s.i (s.reg x), unchanged_setI s _⟩⟩

/-- Settles O53: the digit is the low nibble, and no glyph's address wraps. -/
theorem pointIndexAtGlyph : Obligations.PointIndexAtGlyph := fun x =>
  ⟨decodeWord_encode (.ldFVx x), fun s => ⟨_, rfl, toNat_glyphAddr_lowNibble (s.reg x), unchanged_setI s _⟩⟩

/-! ## Decimal digits -/

/-- Memory after Fx33: the j-th byte from I upward is the j-th digit, wherever the three bytes lie. -/
theorem memRead_store_bcdDigits (b : Byte) (j : Nat) (hj : j < (bcdDigits b).length) :
    (s.memWriteAll (s.indexAddr 0) (bcdDigits b)).memRead (s.indexAddr j) = (bcdDigits b)[j] :=
  memRead_memWriteAll s (s.indexAddr 0) j _ hj (by simp [bcdDigits, Config.memSize])

/-- Settles O54: three consecutive writes, of digits that each fit a byte, within the frame of every Fx33. -/
theorem storeDecimalDigits : Obligations.StoreDecimalDigits := by
  refine fun x => ⟨decodeWord_encode (.ldBVx x), fun s => ?_⟩
  have hexec : exec (.ldBVx x) s = .next (s.memWriteAll (s.indexAddr 0) (bcdDigits (s.reg x))) := rfl
  refine ⟨_, hexec, ?_, ?_, ?_, exec_bytesUnchangedBut_storeAddrs hexec, exec_unchangedBut_written hexec⟩
  · rw [memRead_store_bcdDigits _ 0 (by simp [bcdDigits])]
    exact toNat_ofNat_of_lt (by omega)
  · rw [memRead_store_bcdDigits _ 1 (by simp [bcdDigits])]
    exact toNat_ofNat_of_lt (by omega)
  · rw [memRead_store_bcdDigits _ 2 (by simp [bcdDigits])]
    exact toNat_ofNat_of_lt (by omega)

/-! ## Blocks of registers -/

/-- Memory after a block store of V0..Vx: the k-th byte from I upward is V[k], because sixteen bytes never wrap onto
themselves. -/
theorem memRead_store_firstRegs {k x : RegIdx} (h : k ≤ x) :
    (s.memWriteAll (s.indexAddr 0) (s.firstRegs (x.val + 1))).memRead (s.indexAddr k.val) = s.reg k := by
  have hlen := length_firstRegs s (x.val + 1) x.isLt
  have hk : k.val < (s.firstRegs (x.val + 1)).length := hlen.symm ▸ Nat.lt_succ_of_le h
  have hfit : (s.firstRegs (x.val + 1)).length ≤ Config.memSize := by
    rw [hlen, Config.memSize]; omega
  exact (memRead_memWriteAll s (s.indexAddr 0) k.val _ hk hfit).trans (getElem_firstRegs s _ k.val hk k.isLt)

/-- Settles O55: what the block reads as, and the frame of every Fx55. -/
theorem blockStore : Obligations.BlockStore := fun x =>
  ⟨decodeWord_encode (.ldIVx x), fun s =>
    have hexec : exec (.ldIVx x) s = .next (s.memWriteAll (s.indexAddr 0) (s.firstRegs (x.val + 1))) := rfl
    ⟨_, hexec, fun _ hk => memRead_store_firstRegs hk, exec_bytesUnchangedBut_storeAddrs hexec,
      exec_unchangedBut_written hexec⟩⟩

/-- Settles O56: what the registers up to V[x] hold, and the frame of every Fx65. -/
theorem blockLoad : Obligations.BlockLoad := fun x =>
  ⟨decodeWord_encode (.ldVxI x), fun s =>
    have hexec : exec (.ldVxI x) s = .next (s.loadRegs (x.val + 1)) := rfl
    ⟨_, hexec, fun k hk => by rw [reg_loadRegs s _ x.isLt, if_pos (Nat.lt_succ_of_le hk)],
      exec_regsUnchangedBut_destReg hexec, exec_unchangedBut_written hexec⟩⟩

/-- Settles O22: the store leaves I, so the load reads back the very bytes the store wrote, and the load leaves I and the
registers above V[x]. -/
theorem blockStoreThenLoadRestoresRegisters : Obligations.BlockStoreThenLoadRestoresRegisters := by
  intro x s v
  obtain ⟨t, hstore, hstored, -, hframe⟩ := (blockStore x).2 s
  obtain ⟨u, hload, hloaded, hregs, hframe'⟩ := (blockLoad x).2 { t with v := v }
  have hi : t.i = s.i := hframe .i (by decide)
  have hi' : u.i = t.i := hframe' .i (by decide)
  have haddr (k : Nat) : t.indexAddr k = s.indexAddr k := congrArg (·.toNat + k) hi
  refine ⟨t, u, hstore, hload, fun k hk => ?_, fun k hk => hregs k (not_le_of_gt hk), hi'.trans hi⟩
  calc u.reg k
    _ = t.memRead (t.indexAddr k.val) := hloaded k hk
    _ = t.memRead (s.indexAddr k.val) := by rw [haddr]
    _ = s.reg k := hstored k hk

end Sys2Proof.Machine
end

section
/-!
SUPPORT. The keypad and timer file's statements (45_keys_timers.md R105 to R111): the key a register names, the skips on it,
the moves between registers and timers, and the wait for a key.
-/
namespace Sys2Proof.Machine

/-! ## Skips on a key -/

/-- The key a register names is its value mod 16 (45_keys_timers.md R105, D8). -/
theorem eq_lowNibble {k : RegIdx} {b : Byte} (h : k.val = b.toNat % 16) : k = lowNibble b :=
  Fin.ext h

/-- Settles O42: both are skips, on whether the key named by V[x] is down and on its negation. -/
theorem skipOnKey : Obligations.SkipOnKey := by
  refine fun x => ⟨decodeWord_encode (.skp x), decodeWord_encode (.sknp x), fun s k hk => ?_⟩
  obtain rfl := eq_lowNibble hk
  exact ⟨⟨_, rfl, skipIf_pc Iff.rfl, unchanged_skipIf s _⟩,
    ⟨_, rfl, skipIf_pc (iff_of_eq (Bool.not_eq_true' _)), unchanged_skipIf s _⟩⟩

/-! ## Timers -/

/-- TONE is 1 exactly while ST is not 0 (60_exceptions.md R121). -/
theorem tone_eq_true_iff (s : State) : s.tone = true ↔ s.st ≠ 0 :=
  bne_iff_ne

/-- Settles O57: each is a write of one element, V[x], DT or ST, and TONE follows the ST written. -/
theorem timerRegisterTransfers : Obligations.TimerRegisterTransfers := fun x =>
  ⟨decodeWord_encode (.ldVxDt x), decodeWord_encode (.ldDtVx x), decodeWord_encode (.ldStVx x), fun s =>
    ⟨⟨_, rfl, reg_setReg_self s x s.dt, regs_setReg s x _, unchanged_setReg s x _⟩,
      ⟨_, rfl, setDt_dt s _, unchanged_setDt s _⟩,
      ⟨_, rfl, setSt_st s _, tone_eq_true_iff (s.setSt (s.reg x)), unchanged_setSt s _⟩⟩⟩

/-! ## The wait for a key -/

/-- Settles O58: with a key pressed it is a write of the smallest one to V[x], and with none the way back to its own address to
wait. -/
theorem waitForKey : Obligations.WaitForKey := fun x =>
  ⟨decodeWord_encode (.ldVxK x),
    fun s _ hk =>
      ⟨_, exec_ldVxK_of_some hk.firstKey x, reg_setReg_self s x _, regs_setReg s x _, unchanged_setReg s x _⟩,
    fun s hk =>
      ⟨_, exec_ldVxK_of_none (firstKey_eq_none.2 hk) x, holdForKey_pc s x, holdForKey_waitx s x, holdForKey_mode s x,
        unchanged_holdForKey s x⟩⟩

end Sys2Proof.Machine
end

section
/-!
SUPPORT. The host-interface file's statements (60_exceptions.md R112 to R125): every command completes, each error has its
cause, the outputs of a command are lost on the next one, and what TICK, SET_KEY and the accessors of the host do.
-/
namespace Sys2Proof.Machine

variable {i : Instr} {c : Command} {s t : State}

/-! ## Every command completes (60_exceptions.md R114) -/

/-- A STEP that fetches does not undo the first RESET. -/
theorem stepReady_resetDone (h : stepReady s = .next t) : t.resetDone = s.resetDone := by
  rcases stepReady_cases s with ⟨i, -, hrun⟩ | ⟨e, -, hrun⟩ <;> rw [hrun] at h
  · exact exec_unchangedBut_written h .resetDone (by cases i <;> simp [written])
  · cases h; rfl

/-- No command undoes the first RESET (70_reset_and_hazards.md R134). -/
theorem runCommand_resetDone (h : runCommand c s = .next t) (hdone : s.resetDone = true) : t.resetDone = true := by
  cases c with
  | reset => cases h; rfl
  | load bytes => cases h; exact Eq.trans (unchanged_loadCommand bytes s .resetDone (by decide)) hdone
  | step =>
    cases hm : s.mode with
    | ready =>
      rw [runCommand, stepCommand_of_ready hm] at h
      exact (stepReady_resetDone h).trans hdone
    | waitKey =>
      rw [runCommand, stepCommand_of_waiting hm] at h; cases h
      exact Eq.trans (unchanged_stepWaiting s.beginCommand .resetDone (by decide)) hdone
  | _ => cases h; exact hdone

/-- Settles O10: after a RESET no command is refused, every command has a next state, and none undoes the RESET. -/
theorem everyCommandCompletes : Obligations.EveryCommandCompletes := by
  refine ⟨fun s hdone => ?_, exec_next⟩
  obtain ⟨t, hrun⟩ := runCommand_next s.nextCommand s.takeCommand
  exact ⟨t, (step_of_resetDone hdone).trans hrun, runCommand_resetDone hrun hdone⟩

/-! ## The cause of each error (60_exceptions.md R112) -/

/-- What the row of an error says about the command that reports it and the state that command is issued in. -/
def ErrCause (c : Command) (s : State) : Err → Prop
  | .none => True
  | .unknownOpcode w => c = .step ∧ s.mode = .ready ∧ w = s.fetchWord ∧ decodeWord w = .error (.unknown w)
  | .stackOverflow w =>
    c = .step ∧ s.mode = .ready ∧ w = s.fetchWord ∧ s.sp = 16 ∧ ∃ nnn, decodeWord w = .ok (.call nnn)
  | .stackUnderflow w => c = .step ∧ s.mode = .ready ∧ w = s.fetchWord ∧ s.sp = 0 ∧ decodeWord w = .ok .ret
  | .romTooLarge len => ∃ bytes, c = .load bytes ∧ len = bytes.length ∧ Config.maxProgramBytes < len

theorem errCause_of_eq_none {e : Err} (h : e = .none) : ErrCause c s e := h ▸ trivial

/-- An instruction that reports an error is a 2nnn on a full stack or a 00EE on an empty one. -/
theorem exec_err_cases (h : exec i s = .next t) (hs : s.err = .none) : t.err = .none ∨
    (∃ nnn, i = .call nnn ∧ s.sp = 16 ∧ t.err = .stackOverflow s.opc) ∨
    (i = .ret ∧ s.sp = 0 ∧ t.err = .stackUnderflow s.opc) := by
  have hkept : .err ∉ written i → t.err = .none := fun he => Eq.trans (exec_unchangedBut_written h .err he) hs
  cases i with
  | ret =>
    rcases sp_zero_or_pos s with h0 | h0
    · rw [exec_ret_of_empty h0] at h; cases h; exact .inr (.inr ⟨rfl, h0, rfl⟩)
    · rw [exec_ret_of_pos h0] at h; cases h; exact .inl hs
  | call nnn =>
    rcases sp_lt_or_full s with h0 | h0
    · rw [exec_call_of_lt h0] at h; cases h; exact .inl hs
    · rw [exec_call_of_full h0] at h; cases h; exact .inr (.inl ⟨nnn, rfl, h0, rfl⟩)
  | _ => exact .inl (hkept (by simp [written]))

/-- A STEP that fetches reports an UNKNOWN word, or what the instruction it runs reports of the latched word. -/
theorem stepReady_errCause (h : stepReady s = .next t) (hmode : s.mode = .ready) : ErrCause .step s t.err := by
  cases hd : decodeWord s.fetchWord with
  | error e =>
    rw [stepReady_of_error hd] at h; cases h
    exact ⟨rfl, hmode, rfl, decodeWord_error hd ▸ hd⟩
  | ok i =>
    rw [stepReady_of_ok hd] at h
    rcases exec_err_cases h rfl with herr | ⟨nnn, rfl, hsp, herr⟩ | ⟨rfl, hsp, herr⟩
    · exact errCause_of_eq_none herr
    · rw [herr]; exact ⟨rfl, hmode, rfl, hsp, nnn, hd⟩
    · rw [herr]; exact ⟨rfl, hmode, rfl, hsp, hd⟩

/-- LOAD reports an image only for being too long. -/
theorem loadCommand_errCause (bytes : List Byte) (s : State) :
    ErrCause (.load bytes) s (loadCommand bytes s).err := by
  cases hb : wellFormedImage bytes with
  | true =>
    rw [loadCommand_of_wellFormed hb]
    exact errCause_of_eq_none (memWriteAll_err _ _ _)
  | false =>
    rw [loadCommand_of_illFormed hb]
    exact ⟨bytes, rfl, rfl, by simpa [wellFormedImage] using hb⟩

/-- Whatever a command reports has its cause: only a STEP that fetches and a LOAD report anything. -/
theorem runCommand_errCause (h : runCommand c s = .next t) : ErrCause c s t.err := by
  cases c with
  | load bytes => cases h; exact loadCommand_errCause bytes s
  | step =>
    cases hm : s.mode with
    | ready => rw [runCommand, stepCommand_of_ready hm] at h; exact stepReady_errCause h hm
    | waitKey =>
      rw [runCommand, stepCommand_of_waiting hm] at h; cases h
      exact errCause_of_eq_none (unchanged_stepWaiting s.beginCommand .err (by decide))
  | _ => cases h; trivial

/-- Settles O12: the cause of the error reported, read off for each of the four. -/
theorem eachErrorHasItsCause : Obligations.EachErrorHasItsCause := fun s t h =>
  have hcause : ErrCause s.nextCommand s.takeCommand t.err := runCommand_errCause (run_of_step h)
  ⟨fun _ he => by rwa [he] at hcause, fun _ he => by rwa [he] at hcause, fun _ he => by rwa [he] at hcause,
    fun _ he => by rwa [he] at hcause⟩

/-! ## Outputs are no state (60_exceptions.md R113, R114) -/

/-- Every command begins by clearing the outputs, so it makes no difference when they are cleared already. -/
theorem runCommand_beginCommand (c : Command) (s : State) : runCommand c s.beginCommand = runCommand c s := by
  cases c with
  | step =>
    cases hm : s.mode with
    | ready =>
      rw [runCommand, runCommand, stepCommand_of_ready hm, stepCommand_of_ready (s := s.beginCommand) hm]; rfl
    | waitKey =>
      rw [runCommand, runCommand, stepCommand_of_waiting hm, stepCommand_of_waiting (s := s.beginCommand) hm]; rfl
  | _ => rfl

/-- Which command comes next, and whether it is performed, does not depend on the outputs either. -/
theorem step_beginCommand (s : State) : step s.beginCommand = step s := by
  rw [step_eq, step_eq, ← runCommand_beginCommand _ s.takeCommand]; rfl

/-- Settles O16: states that differ in outputs alone are one state once these are cleared. -/
theorem outputsNeverAffectTheNextCommand : Obligations.OutputsNeverAffectTheNextCommand := fun s ch e rp =>
  (step_beginCommand { s with changed := ch, err := e, reply := rp }).symm.trans (step_beginCommand s)

/-! ## The frames of the other commands -/

/-- A write to KEY, REDRAW and the returned value changes nothing else. -/
theorem unchanged_withKeyRedrawReply (s : State) (key : Vector Bool 16) (redraw : Bool) (r : Reply) :
    UnchangedBut [.key, .redraw, .reply] s { s with key := key, redraw := redraw, reply := r } := by
  intro p hp
  cases p with
  | key | redraw | reply => exact absurd (by decide) hp
  | v | stack | mem => exact fun _ => rfl
  | fb => exact fun _ _ => rfl
  | _ => exact (rfl : _ = _)

theorem unchanged_withKey (s : State) (key : Vector Bool 16) : UnchangedBut [.key] s { s with key := key } :=
  ((unchanged_withKeyRedrawReply s key s.redraw s.reply).erase (q := .redraw) rfl).erase (q := .reply) rfl

theorem unchanged_withRedraw (s : State) (b : Bool) : UnchangedBut [.redraw] s { s with redraw := b } :=
  ((unchanged_withKeyRedrawReply s s.key b s.reply).erase (q := .key) fun _ => rfl).erase (q := .reply) rfl

theorem unchanged_withReply (s : State) (r : Reply) : UnchangedBut [.reply] s { s with reply := r } :=
  ((unchanged_withKeyRedrawReply s s.key s.redraw r).erase (q := .key) fun _ => rfl).erase (q := .redraw) rfl

/-- Once a RESET has completed, a step runs the command that comes next. -/
theorem step_of_nextCommand (hdone : s.resetDone = true) (hcmd : s.nextCommand = c) :
    step s = runCommand c s.takeCommand :=
  hcmd ▸ step_of_resetDone hdone

/-! ## TICK (60_exceptions.md R120) -/

/-- Counting down is subtraction on numbers, which stops at 0. -/
theorem toNat_countDown (b : Byte) : (countDown b).toNat = b.toNat - 1 := by
  unfold countDown
  split
  · next h => rw [h]; rfl
  · next h => bv_omega

/-- Settles O30: the two timers are written, one after the other, once the outputs are cleared. -/
theorem tickCountsTimersDown : Obligations.TickCountsTimersDown := fun s hdone hcmd =>
  ⟨_, step_of_nextCommand hdone hcmd, toNat_countDown s.dt, toNat_countDown s.st, rfl, rfl,
    (((unchanged_takeCommand_beginCommand s).trans (unchanged_setDt _ (countDown s.dt))).trans
      (unchanged_setSt _ (countDown s.st))).mono (by decide)⟩

/-! ## SET_KEY (60_exceptions.md R123) -/

/-- A key flag after SET_KEY: the one named is set, the others are as they were. -/
theorem keyDown_setKeyCommand (k j : RegIdx) (p : Bool) (s : State) :
    (setKeyCommand k p s).keyDown j = if j = k then p else s.keyDown j := by
  simp only [State.keyDown, setKeyCommand, Vector.getElem_set, Fin.ext_iff, eq_comm]

/-- Settles O31, from the flags after SET_KEY and the frame of a write to KEY. -/
theorem setKeyWritesOneFlag : Obligations.SetKeyWritesOneFlag := fun s k p hdone hcmd =>
  ⟨_, step_of_nextCommand hdone hcmd, (keyDown_setKeyCommand k k p _).trans (if_pos rfl),
    fun j hj => (keyDown_setKeyCommand k j p _).trans (if_neg hj), rfl, rfl,
    ((unchanged_takeCommand_beginCommand s).trans (unchanged_withKey _ _)).mono (by decide)⟩

/-! ## The accessors (60_exceptions.md R121, R124, R125) -/

/-- A command that clears the outputs and returns a value changes nothing. -/
theorem step_of_reader {r : Reply} (hdone : s.resetDone = true) (hcmd : s.nextCommand = c)
    (hrun : runCommand c s.takeCommand = .next { s.takeCommand.beginCommand with reply := r }) :
    ∃ t, step s = .next t ∧ t.reply = r ∧ t.pending = s.pending.tail ∧ UnchangedBut (.pending :: outputs) s t :=
  ⟨_, (step_of_nextCommand hdone hcmd).trans hrun, rfl, rfl,
    ((unchanged_takeCommand_beginCommand s).trans (unchanged_withReply _ r)).mono (by decide)⟩

theorem tone_eq_decide (s : State) : s.tone = decide (s.st ≠ 0) :=
  Bool.eq_iff_iff.2 ((tone_eq_true_iff s).trans decide_eq_true_iff.symm)

/-- Settles O32: both are readers, the one of TONE and the other of FB. -/
theorem readersOfToneAndFramebuffer : Obligations.ReadersOfToneAndFramebuffer := fun s hdone =>
  ⟨fun hcmd => step_of_reader hdone hcmd (tone_eq_decide s ▸ rfl), fun hcmd => step_of_reader hdone hcmd rfl⟩

/-- Settles O33: READ_REDRAW is a reader, and CLEAR_REDRAW a write to REDRAW. -/
theorem redrawFlagAccessors : Obligations.RedrawFlagAccessors := fun s hdone =>
  ⟨fun hcmd => step_of_reader hdone hcmd rfl, fun hcmd =>
    ⟨_, step_of_nextCommand hdone hcmd, rfl, rfl,
      ((unchanged_takeCommand_beginCommand s).trans (unchanged_withRedraw _ false)).mono (by decide)⟩⟩

end Sys2Proof.Machine
end

section
/-!
SUPPORT. The reset and load file's statements (70_reset_and_hazards.md R129 to R134): what RESET sets, the run of a machine with
no program, what LOAD writes, and the refusals before the first RESET.
-/
namespace Sys2Proof.Machine

variable {s t : State} {bytes : List Byte} {a k : Nat}

/-! ## Memory right after RESET (20_memory.md R38) -/

theorem length_FONT : FONT.length = 80 := rfl

/-- Below 0x050 memory is reset to the font. -/
theorem some_resetByte_of_lt (h : a < 80) : some (resetByte a) = FONT[a]? := by
  have hlt : a < FONT.length := h
  rw [resetByte, List.getD_eq_getElem _ _ hlt, List.getElem?_eq_getElem hlt]

/-- From 0x050 upward memory is reset to zero. -/
theorem resetByte_of_le (h : 80 ≤ a) : resetByte a = 0 :=
  List.getD_eq_default _ _ h

/-- A memory that lists nothing reads as its reset contents. -/
theorem memRead_of_mem_nil (hmem : s.mem = []) (ha : a < 4096) : s.memRead a = resetByte a := by
  rw [memRead_of_lt ha, hmem, Memory.get]

/-! ## RESET (70_reset_and_hazards.md R129) -/

/-- Settles O19: nothing is listed in memory, and no wait, no change and no error is there to speak of. -/
theorem resetMeetsInvariant : Obligations.ResetMeetsInvariant where
  mem := ⟨.nil, nofun⟩
  waiting := nofun
  changed := nofun
  err := errJustified_of_none rfl

theorem resetCommand_mem (s : State) : (resetCommand s).mem = [] := rfl

theorem resetCommand_reg (s : State) (k : RegIdx) : (resetCommand s).reg k = 0 := Vector.getElem_replicate _

theorem resetCommand_stack (s : State) (k : Fin 16) : (resetCommand s).stack[k.val] = 0 := Vector.getElem_replicate _

theorem resetCommand_keyDown (s : State) (k : RegIdx) : (resetCommand s).keyDown k = false := Vector.getElem_replicate _

/-- Settles O27: every element is the one of `State.reset`, the arrays read one by one. -/
theorem resetSetsEveryElement : Obligations.ResetSetsEveryElement := by
  intro s hcmd
  refine ⟨_, step_of_reset hcmd, resetCommand_reg _, rfl, rfl, resetCommand_stack _, rfl, rfl, rfl, fun a ha => ?_,
    fun a ha hfont => ?_, pixel_clear, rfl, resetCommand_keyDown _, rfl, rfl, rfl, rfl, rfl⟩
  · rw [memRead_of_mem_nil (resetCommand_mem _) (ha.trans (by decide)), some_resetByte_of_lt ha]
  · rw [memRead_of_mem_nil (resetCommand_mem _) ha, resetByte_of_le hfont]

/-! ## Before the first RESET (70_reset_and_hazards.md R134) -/

theorem step_of_not_resetDone (hdone : s.resetDone = false) (hcmd : s.nextCommand ≠ .reset) :
    step s = .refused .beforeReset := by
  rw [step_eq, hdone, beq_false_of_ne hcmd]; rfl

/-- Settles O11: RESET is performed from every state, and no other command before a RESET. -/
theorem onlyResetBeforeReset : Obligations.OnlyResetBeforeReset := fun _ hdone =>
  ⟨step_of_not_resetDone hdone, fun hcmd => ⟨_, step_of_reset hcmd, rfl⟩⟩

/-! ## A machine with no program (70_reset_and_hazards.md R130) -/

/-- A run goes on from the state its first step leaves. -/
theorem run_succ_of_next {M : Host.Core} {s t : M.State} (h : M.step s = .next t) (n : Nat) :
    M.run (n + 1) s = M.run n t := by
  rw [Host.Core.run, h]

/-- A transition that reports an error puts it before the errors still to come. -/
theorem errorsWithin_succ_of_next (h : step s = .next t) (herr : t.err ≠ .none) (n : Nat) :
    errorsWithin (n + 1) s = t.err :: errorsWithin n t := by
  rw [errorsWithin, h]
  exact if_neg herr

/-- The machine after k STEPs with no program loaded: ready to fetch, memory as RESET left it, PC two bytes on for each STEP. -/
structure WalkedEmpty (k : Nat) (s : State) : Prop where
  resetDone : s.resetDone = true
  pending : s.pending = []
  mode : s.mode = .ready
  mem : s.mem = []
  pc : s.pc = BitVec.ofNat 16 (0x200 + 2 * k)

theorem walkedEmpty_reset : WalkedEmpty 0 State.reset := ⟨rfl, rfl, rfl, rfl, rfl⟩

/-- Above the font and below the end of memory the fetched word is 0. -/
theorem WalkedEmpty.fetchWord_eq_zero (h : WalkedEmpty k s) (hk : k < 1792) : s.fetchWord = 0 := by
  have hpc : s.pc.toNat = 0x200 + 2 * k := by rw [h.pc]; exact toNat_ofNat_of_lt (by omega)
  have hzero (a : Nat) (hfont : 80 ≤ a) (hend : a < 4096) : s.memRead a = 0 :=
    (memRead_of_mem_nil h.mem hend).trans (resetByte_of_le hfont)
  rw [State.fetchWord, hpc, hzero _ (by omega) (by omega), hzero _ (by omega) (by omega)]
  rfl

/-- A STEP through empty memory reports the UNKNOWN word 0 and moves on by two bytes. -/
theorem WalkedEmpty.step_next (h : WalkedEmpty k s) (hk : k < 1792) :
    ∃ t, step s = .next t ∧ t.err = .unknownOpcode 0 ∧ WalkedEmpty (k + 1) t := by
  have hword := h.fetchWord_eq_zero hk
  have hcmd : s.nextCommand = .step := by rw [State.nextCommand, h.pending]; rfl
  have hunknown : decodeWord s.fetchWord = .error (.unknown 0) := by rw [hword]; rfl
  refine ⟨_, step_ready_of_error h.resetDone hcmd h.mode hunknown, congrArg _ hword,
    h.resetDone, congrArg List.tail h.pending, h.mode, h.mem, ?_⟩
  have hnext : 0x200 + 2 * (k + 1) = 0x200 + 2 * k + 2 := rfl
  rw [hnext, BitVec.ofNat_add, ← h.pc]; rfl

/-- n STEPs from there, as far as memory goes: n reports, and PC 2n bytes on. -/
theorem WalkedEmpty.run_next {n : Nat} (h : WalkedEmpty k s) (hn : k + n ≤ 1792) :
    errorsWithin n s = List.replicate n (.unknownOpcode 0) ∧
      ∃ t : State, Sys2Proof.core.run n s = .next t ∧ WalkedEmpty (k + n) t := by
  induction n generalizing k s with
  | zero => exact ⟨rfl, s, rfl, h⟩
  | succ n ih =>
    obtain ⟨t, hstep, herr, ht⟩ := h.step_next (by omega)
    obtain ⟨herrs, u, hrun, hu⟩ := ih ht (by omega)
    refine ⟨?_, u, (run_succ_of_next (M := Sys2Proof.core) hstep n).trans hrun, by rwa [Nat.add_right_comm] at hu⟩
    rw [errorsWithin_succ_of_next hstep (by simp [herr]), herr, herrs, List.replicate_succ]

/-- Settles O26, by the run from RESET, which has walked no byte yet. -/
theorem emptyMachineReportsUnknownOpcode : Obligations.EmptyMachineReportsUnknownOpcode := by
  intro k hk
  obtain ⟨herrs, t, hrun, ht⟩ := walkedEmpty_reset.run_next (n := k) (by omega)
  exact ⟨herrs, t, hrun, by rw [ht.pc, Nat.zero_add]⟩

/-! ## LOAD (70_reset_and_hazards.md R131, R132) -/

theorem wellFormedImage_eq_true_iff : wellFormedImage bytes = true ↔ bytes.length ≤ 3584 := decide_eq_true_iff

theorem wellFormedImage_eq_false_iff : wellFormedImage bytes = false ↔ 3584 < bytes.length :=
  decide_eq_false_iff_not.trans Nat.not_le

section load
variable (hdone : s.resetDone = true) (hcmd : s.nextCommand = .load bytes)
include hdone hcmd

theorem step_load_of_le (hlen : bytes.length ≤ 3584) :
    step s = .next (s.takeCommand.beginCommand.memWriteAll 0x200 bytes) :=
  (step_of_nextCommand hdone hcmd).trans
    (congrArg _ (loadCommand_of_wellFormed (wellFormedImage_eq_true_iff.2 hlen) s.takeCommand))

theorem step_load_of_lt (hlen : 3584 < bytes.length) :
    step s = .next (s.takeCommand.beginCommand.raise (.romTooLarge bytes.length)) :=
  (step_of_nextCommand hdone hcmd).trans
    (congrArg _ (loadCommand_of_illFormed (wellFormedImage_eq_false_iff.2 hlen) s.takeCommand))

end load

/-- Settles O28: the bytes fit in memory without wrapping, so each is read back where it was written, and all else is as the
start of a command leaves it. -/
theorem loadWritesImage : Obligations.LoadWritesImage := fun s bytes hdone hcmd hlen =>
  ⟨_, step_load_of_le hdone hcmd hlen,
    fun j hj => memRead_memWriteAll _ 0x200 j bytes hj (hlen.trans (by decide)),
    bytes_memWriteAll s.takeCommand.beginCommand 0x200 bytes,
    memWriteAll_err _ _ _, memWriteAll_changed _ _ _, memWriteAll_reply _ _ _, memWriteAll_pending _ _ _,
    ((unchanged_takeCommand_beginCommand s).trans (unchanged_memWriteAll _ _ _)).mono (by decide)⟩

/-- Settles O29: the report is all that the command adds to its start. -/
theorem oversizeLoadWritesNothing : Obligations.OversizeLoadWritesNothing := fun s _ hdone hcmd hlen =>
  ⟨_, step_load_of_lt hdone hcmd hlen, rfl,
    ((unchanged_takeCommand_beginCommand s).trans (unchanged_raise _ _)).mono (by decide)⟩

end Sys2Proof.Machine
end
